-- ==== Sys2Proof/Word.lean ====
section
/-! DEFINITION. The widths of the hardware (spec/00_scope.md R6, R7): bytes, words, and the fields of an
instruction word (spec/30_encoding.md R91). All values are unsigned. -/

namespace Sys2Proof

/-- A byte: a memory cell, a general register, a timer, an 8-bit immediate `NN` (R21, R61, R91). -/
abbrev Byte := BitVec 8

/-- A 16-bit word: an instruction word, `PC`, `I`, a call-stack entry (R24, R28, R29, R90). -/
abbrev Word := BitVec 16

/-- A general register's index, the fields `X` and `Y` (R91). -/
abbrev Reg := BitVec 4

/-- A 4-bit quantity: the row count `N` of `DRW`, a key code (R37, R91). -/
abbrev Nibble := BitVec 4

/-- A 12-bit address, the field `NNN` (R91). -/
abbrev Addr12 := BitVec 12

/-- The register that doubles as the flag, `VF` (spec/10_state.md R22). -/
def flagReg : Reg := 15#4

end Sys2Proof
end

