-- ==== Sys2Proof/Config.lean ====
section
/-! DEFINITION. What an implementation fixes (spec/00_scope.md R6): the sizes of the block, the types of its named
parameters, and the free inputs, of which nothing is known. Which value each named parameter takes stands in
Sys2Proof/Machine/Params.lean. -/

namespace Sys2Proof.Config

/-- `MEM_SIZE`: main memory in bytes, addresses 0x000 to 0xFFF (R6, spec/20_memory.md R61). -/
def memSize : Nat := 4096

/-- `PROG_BASE`: where a program image is loaded, and the reset `PC` (R6). -/
def progBase : Nat := 0x200

/-- `MAX_IMAGE = MEM_SIZE - PROG_BASE` (R6, spec/70_reset_and_hazards.md R263). -/
def maxImage : Nat := 3584

/-- `DATA_OOB`: what a data access above 0xFFF does (R6, spec/20_memory.md R68). -/
inductive DataOob where
  /-- It raises `DataAddressRange`. -/
  | fault
  /-- Its address is taken modulo 4096. -/
  | wrap12
  deriving DecidableEq, Repr

/-- `DRAW_EDGE`: what becomes of a sprite's pixels past an edge (R6, spec/42_display.md R173). -/
inductive DrawEdge where
  /-- They continue at the opposite edge. -/
  | wrap
  /-- They are dropped. -/
  | clip
  deriving DecidableEq, Repr

/-- `FLAG_ORDER`: whether the flag is written before or after the result (R6, spec/41_register_alu.md R140). -/
inductive FlagOrder where
  | flagFirst
  | flagLast
  deriving DecidableEq, Repr

/-- `SHIFT_SRC`: which register `SHR` and `SHL` read (R6, spec/41_register_alu.md R149). -/
inductive ShiftSrc where
  | vy
  | vx
  deriving DecidableEq, Repr

/-- The key the driver presents at a tick that `State.schedule` does not script: `none` or a code 0 to 15, chosen freely by
the driver (spec/10_state.md R37, spec/60_exceptions.md R244). The argument is the tick's number. A free value
(log entry 2): it has no body, so nothing can be proved of it. -/
opaque freeKey : Nat → Option Nibble

/-- The random byte of a tick that `State.schedule` does not script: any byte, under no law (spec/10_state.md R38,
spec/93_implementation_defined.md U8). The argument is the tick's number. A free value (log entry 2). -/
opaque freeRnd : Nat → Byte

end Sys2Proof.Config
end

