-- ==== Sys2Proof/Syntax.lean ====
section
/-! DEFINITION. The instructions: one constructor per row of spec/opcode_table.json, in the table's order
(spec/30_encoding.md R100, R107). The operands are the fields of R91; the width of each is its type. -/

namespace Sys2Proof

/-- The 34 operations (R100). `w[3:0]` of `seReg` and `sneReg` is ignored by decode (R99) and is no operand. -/
inductive Instr where
  /-- `CLS`, row 1. -/
  | cls
  /-- `RET`, row 2. -/
  | ret
  /-- `JP NNN`, row 3. -/
  | jp (nnn : Addr12)
  /-- `CALL NNN`, row 4. -/
  | call (nnn : Addr12)
  /-- `SE Vx,NN`, row 5. -/
  | seImm (x : Reg) (nn : Byte)
  /-- `SNE Vx,NN`, row 6. -/
  | sneImm (x : Reg) (nn : Byte)
  /-- `SE Vx,Vy`, row 7. -/
  | seReg (x y : Reg)
  /-- `SNE Vx,Vy`, row 8. -/
  | sneReg (x y : Reg)
  /-- `LD Vx,NN`, row 9. -/
  | ldImm (x : Reg) (nn : Byte)
  /-- `ADD Vx,NN`, row 10. -/
  | addImm (x : Reg) (nn : Byte)
  /-- `LD Vx,Vy`, row 11. -/
  | ldReg (x y : Reg)
  /-- `OR Vx,Vy`, row 12. -/
  | orReg (x y : Reg)
  /-- `AND Vx,Vy`, row 13. -/
  | andReg (x y : Reg)
  /-- `XOR Vx,Vy`, row 14. -/
  | xorReg (x y : Reg)
  /-- `ADD Vx,Vy`, row 15. -/
  | addReg (x y : Reg)
  /-- `SUB Vx,Vy`, row 16. -/
  | subReg (x y : Reg)
  /-- `SHR Vx,Vy`, row 17. -/
  | shr (x y : Reg)
  /-- `SUBN Vx,Vy`, row 18. -/
  | subn (x y : Reg)
  /-- `SHL Vx,Vy`, row 19. -/
  | shl (x y : Reg)
  /-- `JP V0,NNN`, row 20. -/
  | jpV0 (nnn : Addr12)
  /-- `RND Vx,NN`, row 21. -/
  | rnd (x : Reg) (nn : Byte)
  /-- `DRW Vx,Vy,N`, row 22. -/
  | drw (x y : Reg) (n : Nibble)
  /-- `SKP Vx`, row 23. -/
  | skp (x : Reg)
  /-- `SKNP Vx`, row 24. -/
  | sknp (x : Reg)
  /-- `LD I,NNN`, row 25. -/
  | ldI (nnn : Addr12)
  /-- `LD Vx,DT`, row 26. -/
  | ldVxDt (x : Reg)
  /-- `LD Vx,K`, row 27. -/
  | ldVxK (x : Reg)
  /-- `LD DT,Vx`, row 28. -/
  | ldDtVx (x : Reg)
  /-- `LD ST,Vx`, row 29. -/
  | ldStVx (x : Reg)
  /-- `ADD I,Vx`, row 30. -/
  | addI (x : Reg)
  /-- `LD F,Vx`, row 31. -/
  | ldF (x : Reg)
  /-- `LD [I],Vx`, row 32: store `V0` to `Vx`. -/
  | storeRegs (x : Reg)
  /-- `LD Vx,[I]`, row 33: load `V0` to `Vx`. -/
  | loadRegs (x : Reg)
  /-- `BCD Vx`, row 34. -/
  | bcd (x : Reg)
  deriving DecidableEq, Repr

end Sys2Proof
end

