-- ==== Sys2Proof/WellFormed.lean ====
section
/-! DEFINITION. Which operand values an instruction's encoding admits (spec/30_encoding.md R91, R93), and which
program images the memory holds (spec/70_reset_and_hazards.md R263). `Instr` gives every operand its field's width as a
type, so a term of `Instr` meets the operand checks by construction; the checks themselves are on plain numbers, as an
assembler's operands are. -/

namespace Sys2Proof

/-- A register index `X` or `Y` fits its 4-bit field (R91). -/
def regOk (n : Nat) : Bool := decide (n < 16)

/-- A row count `N` fits its 4-bit field (R91). -/
def nibbleOk (n : Nat) : Bool := decide (n < 16)

/-- An immediate `NN` fits its 8-bit field (R91). -/
def byteOk (n : Nat) : Bool := decide (n < 256)

/-- An address `NNN` fits its 12-bit field (R91). -/
def addrOk (n : Nat) : Bool := decide (n < 4096)

/-- A program image fits above `PROG_BASE` (R263). -/
def imageOk (image : List Byte) : Bool := decide (image.length ≤ Config.maxImage)

/-- Every operand of the instruction fits its field (R91). -/
def Instr.wellFormed : Instr → Bool
  | .cls | .ret => true
  | .jp nnn | .call nnn | .jpV0 nnn | .ldI nnn => addrOk nnn.toNat
  | .seImm x nn | .sneImm x nn | .ldImm x nn | .addImm x nn | .rnd x nn => regOk x.toNat && byteOk nn.toNat
  | .seReg x y | .sneReg x y | .ldReg x y | .orReg x y | .andReg x y | .xorReg x y
  | .addReg x y | .subReg x y | .shr x y | .subn x y | .shl x y => regOk x.toNat && regOk y.toNat
  | .drw x y n => regOk x.toNat && regOk y.toNat && nibbleOk n.toNat
  | .skp x | .sknp x | .ldVxDt x | .ldVxK x | .ldDtVx x | .ldStVx x | .addI x | .ldF x
  | .storeRegs x | .loadRegs x | .bcd x => regOk x.toNat

end Sys2Proof
end

