-- ==== Sys2Proof/Decode.lean ====
section
/-! DEFINITION. From bytes to an instruction and back (spec/30_encoding.md). Decode is total and pure (R94): a word is one
of the 34 operations or rejected by name. After it stand the encoder and the opcode map as data (R100). -/

namespace Sys2Proof

/-- Why bytes are no instruction. -/
inductive DecodeError where
  /-- Fewer than the two bytes every instruction has (R90). -/
  | truncated
  /-- The word selects no row of the opcode map (R101). -/
  | unknown (w : Word)
  deriving DecidableEq, Repr

/-- `OP = w[15:12]` (R91). -/
def opField (w : Word) : Nibble := w.extractLsb' 12 4
/-- `X = w[11:8]` (R91). -/
def xField (w : Word) : Reg := w.extractLsb' 8 4
/-- `Y = w[7:4]` (R91). -/
def yField (w : Word) : Reg := w.extractLsb' 4 4
/-- `N = w[3:0]` (R91). -/
def nField (w : Word) : Nibble := w.extractLsb' 0 4
/-- `NN = w[7:0]` (R91). -/
def nnField (w : Word) : Byte := w.extractLsb' 0 8
/-- `NNN = w[11:0]` (R91). -/
def nnnField (w : Word) : Addr12 := w.extractLsb' 0 12

/-- Family 0x0: all 16 bits are compared (R95). -/
def decodeFamily0 (w : Word) : Option Instr :=
  match w.toNat with
  | 0x00E0 => some .cls
  | 0x00EE => some .ret
  | _ => none

/-- Family 0x8: the second lookup is on `N` (R96). -/
def decodeFamily8 (w : Word) : Option Instr :=
  match (nField w).toNat with
  | 0x0 => some (.ldReg (xField w) (yField w))
  | 0x1 => some (.orReg (xField w) (yField w))
  | 0x2 => some (.andReg (xField w) (yField w))
  | 0x3 => some (.xorReg (xField w) (yField w))
  | 0x4 => some (.addReg (xField w) (yField w))
  | 0x5 => some (.subReg (xField w) (yField w))
  | 0x6 => some (.shr (xField w) (yField w))
  | 0x7 => some (.subn (xField w) (yField w))
  | 0xE => some (.shl (xField w) (yField w))
  | _ => none

/-- Family 0xE: the second lookup is on `NN` (R97). -/
def decodeFamilyE (w : Word) : Option Instr :=
  match (nnField w).toNat with
  | 0x9E => some (.skp (xField w))
  | 0xA1 => some (.sknp (xField w))
  | _ => none

/-- Family 0xF: the second lookup is on `NN` (R98). -/
def decodeFamilyF (w : Word) : Option Instr :=
  match (nnField w).toNat with
  | 0x07 => some (.ldVxDt (xField w))
  | 0x0A => some (.ldVxK (xField w))
  | 0x15 => some (.ldDtVx (xField w))
  | 0x18 => some (.ldStVx (xField w))
  | 0x1E => some (.addI (xField w))
  | 0x29 => some (.ldF (xField w))
  | 0x33 => some (.bcd (xField w))
  | 0x55 => some (.storeRegs (xField w))
  | 0x65 => some (.loadRegs (xField w))
  | _ => none

/-- The operation a word selects, none where it is `unknown`: the first lookup, on `OP` (R94). `w[3:0]` is ignored in
families 0x5 and 0x9 (R99). -/
def decodeWord? (w : Word) : Option Instr :=
  match (opField w).toNat with
  | 0x0 => decodeFamily0 w
  | 0x1 => some (.jp (nnnField w))
  | 0x2 => some (.call (nnnField w))
  | 0x3 => some (.seImm (xField w) (nnField w))
  | 0x4 => some (.sneImm (xField w) (nnField w))
  | 0x5 => some (.seReg (xField w) (yField w))
  | 0x6 => some (.ldImm (xField w) (nnField w))
  | 0x7 => some (.addImm (xField w) (nnField w))
  | 0x8 => decodeFamily8 w
  | 0x9 => some (.sneReg (xField w) (yField w))
  | 0xA => some (.ldI (nnnField w))
  | 0xB => some (.jpV0 (nnnField w))
  | 0xC => some (.rnd (xField w) (nnField w))
  | 0xD => some (.drw (xField w) (yField w) (nField w))
  | 0xE => decodeFamilyE w
  | 0xF => decodeFamilyF w
  | _ => none

/-- The operation of a word, or the word rejected by name (R94, R101). -/
def decodeWord (w : Word) : Except DecodeError Instr :=
  match decodeWord? w with
  | some i => .ok i
  | none => .error (.unknown w)

/-- Two bytes as a word, the first in the high half: big-endian (spec/20_memory.md R64). -/
def bytesToWord (hi lo : Byte) : Word := hi ++ lo

/-- The first instruction of a byte string and the bytes after it (R90). -/
def decode : List Byte → Except DecodeError (Instr × List Byte)
  | hi :: lo :: rest =>
    match decodeWord (bytesToWord hi lo) with
    | .ok i => .ok (i, rest)
    | .error e => .error e
  | _ => .error .truncated

/-! ### The encoder, from the formats of R92 and the numbers of R100 -/

/-- Format `NNN` (R92). -/
def wordNNN (op : Nibble) (nnn : Addr12) : Word := op ++ nnn
/-- Format `XNN` (R92). -/
def wordXNN (op : Nibble) (x : Reg) (nn : Byte) : Word := op ++ x ++ nn
/-- Format `XYN` (R92). -/
def wordXYN (op : Nibble) (x y : Reg) (n : Nibble) : Word := op ++ x ++ y ++ n

/-- The word of an instruction (R100). The nibble that decode ignores is written 0 (R105). -/
def encodeWord : Instr → Word
  | .cls => 0x00E0#16
  | .ret => 0x00EE#16
  | .jp nnn => wordNNN 0x1#4 nnn
  | .call nnn => wordNNN 0x2#4 nnn
  | .seImm x nn => wordXNN 0x3#4 x nn
  | .sneImm x nn => wordXNN 0x4#4 x nn
  | .seReg x y => wordXYN 0x5#4 x y 0x0#4
  | .sneReg x y => wordXYN 0x9#4 x y 0x0#4
  | .ldImm x nn => wordXNN 0x6#4 x nn
  | .addImm x nn => wordXNN 0x7#4 x nn
  | .ldReg x y => wordXYN 0x8#4 x y 0x0#4
  | .orReg x y => wordXYN 0x8#4 x y 0x1#4
  | .andReg x y => wordXYN 0x8#4 x y 0x2#4
  | .xorReg x y => wordXYN 0x8#4 x y 0x3#4
  | .addReg x y => wordXYN 0x8#4 x y 0x4#4
  | .subReg x y => wordXYN 0x8#4 x y 0x5#4
  | .shr x y => wordXYN 0x8#4 x y 0x6#4
  | .subn x y => wordXYN 0x8#4 x y 0x7#4
  | .shl x y => wordXYN 0x8#4 x y 0xE#4
  | .jpV0 nnn => wordNNN 0xB#4 nnn
  | .rnd x nn => wordXNN 0xC#4 x nn
  | .drw x y n => wordXYN 0xD#4 x y n
  | .skp x => wordXNN 0xE#4 x 0x9E#8
  | .sknp x => wordXNN 0xE#4 x 0xA1#8
  | .ldI nnn => wordNNN 0xA#4 nnn
  | .ldVxDt x => wordXNN 0xF#4 x 0x07#8
  | .ldVxK x => wordXNN 0xF#4 x 0x0A#8
  | .ldDtVx x => wordXNN 0xF#4 x 0x15#8
  | .ldStVx x => wordXNN 0xF#4 x 0x18#8
  | .addI x => wordXNN 0xF#4 x 0x1E#8
  | .ldF x => wordXNN 0xF#4 x 0x29#8
  | .storeRegs x => wordXNN 0xF#4 x 0x55#8
  | .loadRegs x => wordXNN 0xF#4 x 0x65#8
  | .bcd x => wordXNN 0xF#4 x 0x33#8

/-- The high byte of a word, the one at the lower address (spec/20_memory.md R64). -/
def hiByte (w : Word) : Byte := w.extractLsb' 8 8
/-- The low byte of a word (spec/20_memory.md R64). -/
def loByte (w : Word) : Byte := w.extractLsb' 0 8

/-- The two bytes of an instruction as they stand in memory. -/
def encode (i : Instr) : List Byte := [hiByte (encodeWord i), loByte (encodeWord i)]

/-! ### The opcode map as data (R100) -/

/-- One row of the map: `w` selects it exactly when `w & mask = value` (R100). -/
structure OpcodeRow where
  name  : String
  value : Word
  mask  : Word
  deriving DecidableEq, Repr

/-- The word selects the row (R100). -/
def OpcodeRow.selects (r : OpcodeRow) (w : Word) : Bool := w &&& r.mask == r.value

/-- The rows of R100 whose whole family is one operation, and the two fixed words. -/
def opcodeRowsPlain : List OpcodeRow :=
  [⟨"CLS", 0x00E0#16, 0xFFFF#16⟩, ⟨"RET", 0x00EE#16, 0xFFFF#16⟩,
   ⟨"JP_NNN", 0x1000#16, 0xF000#16⟩, ⟨"CALL_NNN", 0x2000#16, 0xF000#16⟩,
   ⟨"SE_Vx_NN", 0x3000#16, 0xF000#16⟩, ⟨"SNE_Vx_NN", 0x4000#16, 0xF000#16⟩,
   ⟨"SE_Vx_Vy", 0x5000#16, 0xF000#16⟩, ⟨"SNE_Vx_Vy", 0x9000#16, 0xF000#16⟩,
   ⟨"LD_Vx_NN", 0x6000#16, 0xF000#16⟩, ⟨"ADD_Vx_NN", 0x7000#16, 0xF000#16⟩,
   ⟨"JP_V0_NNN", 0xB000#16, 0xF000#16⟩, ⟨"RND_Vx_NN", 0xC000#16, 0xF000#16⟩,
   ⟨"DRW_Vx_Vy_N", 0xD000#16, 0xF000#16⟩, ⟨"LD_I_NNN", 0xA000#16, 0xF000#16⟩]

/-- The rows of R100 in families 0x8, 0xE and 0xF. -/
def opcodeRowsSecond : List OpcodeRow :=
  [⟨"LD_Vx_Vy", 0x8000#16, 0xF00F#16⟩, ⟨"OR_Vx_Vy", 0x8001#16, 0xF00F#16⟩,
   ⟨"AND_Vx_Vy", 0x8002#16, 0xF00F#16⟩, ⟨"XOR_Vx_Vy", 0x8003#16, 0xF00F#16⟩,
   ⟨"ADD_Vx_Vy", 0x8004#16, 0xF00F#16⟩, ⟨"SUB_Vx_Vy", 0x8005#16, 0xF00F#16⟩,
   ⟨"SHR_Vx_Vy", 0x8006#16, 0xF00F#16⟩, ⟨"SUBN_Vx_Vy", 0x8007#16, 0xF00F#16⟩,
   ⟨"SHL_Vx_Vy", 0x800E#16, 0xF00F#16⟩, ⟨"SKP_Vx", 0xE09E#16, 0xF0FF#16⟩,
   ⟨"SKNP_Vx", 0xE0A1#16, 0xF0FF#16⟩, ⟨"LD_Vx_DT", 0xF007#16, 0xF0FF#16⟩,
   ⟨"LD_Vx_K", 0xF00A#16, 0xF0FF#16⟩, ⟨"LD_DT_Vx", 0xF015#16, 0xF0FF#16⟩,
   ⟨"LD_ST_Vx", 0xF018#16, 0xF0FF#16⟩, ⟨"ADD_I_Vx", 0xF01E#16, 0xF0FF#16⟩,
   ⟨"LD_F_Vx", 0xF029#16, 0xF0FF#16⟩, ⟨"LD__I__Vx", 0xF055#16, 0xF0FF#16⟩,
   ⟨"LD_Vx__I", 0xF065#16, 0xF0FF#16⟩, ⟨"BCD_Vx", 0xF033#16, 0xF0FF#16⟩]

/-- The opcode map, 34 rows (R100, R103). -/
def opcodeRows : List OpcodeRow := opcodeRowsPlain ++ opcodeRowsSecond

/-- The name of an instruction's row in the opcode map (R100, R107). -/
def Instr.rowName : Instr → String
  | .cls => "CLS"
  | .ret => "RET"
  | .jp _ => "JP_NNN"
  | .call _ => "CALL_NNN"
  | .seImm _ _ => "SE_Vx_NN"
  | .sneImm _ _ => "SNE_Vx_NN"
  | .seReg _ _ => "SE_Vx_Vy"
  | .sneReg _ _ => "SNE_Vx_Vy"
  | .ldImm _ _ => "LD_Vx_NN"
  | .addImm _ _ => "ADD_Vx_NN"
  | .ldReg _ _ => "LD_Vx_Vy"
  | .orReg _ _ => "OR_Vx_Vy"
  | .andReg _ _ => "AND_Vx_Vy"
  | .xorReg _ _ => "XOR_Vx_Vy"
  | .addReg _ _ => "ADD_Vx_Vy"
  | .subReg _ _ => "SUB_Vx_Vy"
  | .shr _ _ => "SHR_Vx_Vy"
  | .subn _ _ => "SUBN_Vx_Vy"
  | .shl _ _ => "SHL_Vx_Vy"
  | .jpV0 _ => "JP_V0_NNN"
  | .rnd _ _ => "RND_Vx_NN"
  | .drw _ _ _ => "DRW_Vx_Vy_N"
  | .skp _ => "SKP_Vx"
  | .sknp _ => "SKNP_Vx"
  | .ldI _ => "LD_I_NNN"
  | .ldVxDt _ => "LD_Vx_DT"
  | .ldVxK _ => "LD_Vx_K"
  | .ldDtVx _ => "LD_DT_Vx"
  | .ldStVx _ => "LD_ST_Vx"
  | .addI _ => "ADD_I_Vx"
  | .ldF _ => "LD_F_Vx"
  | .storeRegs _ => "LD__I__Vx"
  | .loadRegs _ => "LD_Vx__I"
  | .bcd _ => "BCD_Vx"

/-- The host's question: the instruction the decoder reads from an instruction whose bits are `w`, numbered as the opcode
table numbers them. Every instruction is one 16-bit word, stored big-endian (R90); bits at and above `nbits` are 0. -/
def decodeTableWord (nbits w : Nat) : Option Instr :=
  match decode [hiByte (BitVec.ofNat 16 (w % 2 ^ nbits)), loByte (BitVec.ofNat 16 (w % 2 ^ nbits))] with
  | .ok (i, _) => some i
  | .error _ => none

end Sys2Proof
end

