-- ==== Sys2Proof/Machine/Flags.lean ====
section
/-! DEFINITION. The values the six flag-writing instructions put into `VF` (spec/10_state.md R22,
spec/41_register_alu.md R147 to R151, spec/42_display.md R174). -/

namespace Sys2Proof.Machine

/-- A flag as the byte `VF` holds: 1 or 0. -/
def flagByte (b : Bool) : Byte := if b then 1 else 0

/-- `ADD Vx,Vy`: 1 when the unsigned sum passes 255 (R147). -/
def carryFlag (a b : Byte) : Byte := flagByte (decide (255 < a.toNat + b.toNat))

/-- `SUB`, `SUBN`: 1 when the minuend is at least the subtrahend, no borrow (R148, R150). -/
def noBorrowFlag (minuend subtrahend : Byte) : Byte := flagByte (decide (subtrahend.toNat ≤ minuend.toNat))

/-- `SHR`: the bit shifted out, the old bit 0 (R149). -/
def shrFlag (b : Byte) : Byte := flagByte (b.getLsbD 0)

/-- `SHL`: the bit shifted out, the old bit 7 (R151). -/
def shlFlag (b : Byte) : Byte := flagByte (b.getLsbD 7)

/-- `DRW`: 1 when some cell went from 1 to 0 (R171, R174). -/
def collisionFlag (hit : Bool) : Byte := flagByte hit

end Sys2Proof.Machine
end

