-- ==== Sys2Proof/Machine/Params.lean ====
section
/-! DEFINITION. The value each named parameter of spec/00_scope.md R6 takes in this model: the spec's default of each
(log entries 5 to 9). They stand here, and not in Config, so that a test that shows another value can be followed by
changing one body. -/

namespace Sys2Proof.Machine

/-- `DATA_OOB = fault` (R6, spec/20_memory.md R68; log entry 6). -/
def dataOob : Config.DataOob := .fault

/-- `DRAW_EDGE = wrap` (R6, spec/42_display.md R173; log entry 7). -/
def drawEdge : Config.DrawEdge := .wrap

/-- `FLAG_ORDER = flag_first` (R6, spec/41_register_alu.md R140; log entry 8). -/
def flagOrder : Config.FlagOrder := .flagFirst

/-- `SHIFT_SRC = Vy` (R6, spec/41_register_alu.md R149; log entry 9). -/
def shiftSrc : Config.ShiftSrc := .vy

/-- The glyphs of digits 0 to 7 (spec/70_reset_and_hazards.md R262). -/
def glyphs07 : List Byte :=
  [0xF0, 0x90, 0x90, 0x90, 0xF0, 0x20, 0x60, 0x20, 0x20, 0x70] ++
  [0xF0, 0x10, 0xF0, 0x80, 0xF0, 0xF0, 0x10, 0xF0, 0x10, 0xF0] ++
  [0x90, 0x90, 0xF0, 0x10, 0x10, 0xF0, 0x80, 0xF0, 0x10, 0xF0] ++
  [0xF0, 0x80, 0xF0, 0x90, 0xF0, 0xF0, 0x10, 0x20, 0x40, 0x40]

/-- The glyphs of digits 8 to F (spec/70_reset_and_hazards.md R262). -/
def glyphs8F : List Byte :=
  [0xF0, 0x90, 0xF0, 0x90, 0xF0, 0xF0, 0x90, 0xF0, 0x10, 0xF0] ++
  [0xF0, 0x90, 0xF0, 0x90, 0x90, 0xE0, 0x90, 0xE0, 0x90, 0xE0] ++
  [0xF0, 0x80, 0x80, 0x80, 0xF0, 0xE0, 0x90, 0x90, 0x90, 0xE0] ++
  [0xF0, 0x80, 0xF0, 0x80, 0xF0, 0xF0, 0x80, 0xF0, 0x80, 0x80]

/-- `FONT[0..79]`, the standard table (R6, spec/70_reset_and_hazards.md R262; log entry 5). -/
def font : List Byte := glyphs07 ++ glyphs8F

end Sys2Proof.Machine
end

