-- ==== Sys2Proof/Machine/Memory.lean ====
section
/-! DEFINITION. Main memory (spec/20_memory.md R61): 4096 bytes, held as the cells that differ from the reset contents,
at strictly rising addresses. -/

namespace Sys2Proof.Machine

/-- Main memory `MEM` (R61): the listed cells; every other address reads as `resetByte`. -/
abbrev Memory := List Host.Cell

/-- What an address that is not listed reads as: the contents after a reset with the empty image, the font at 0x000 and 0
elsewhere (spec/10_state.md R43, spec/70_reset_and_hazards.md R261, R262). -/
def resetByte (a : Nat) : Byte := (font[a]?).getD 0

/-- The canonical form: addresses strictly rising and in range, no cell equal to what it would read as unlisted. -/
abbrev Memory.wf (m : Memory) : Prop :=
  m.Pairwise (fun c d => c.1 < d.1) ∧ ∀ c ∈ m, c.1 < Config.memSize ∧ c.2 ≠ resetByte c.1

/-- The byte at an address, without the bound of R68. -/
def memGet : Memory → Nat → Byte
  | [], a => resetByte a
  | (k, b) :: rest, a => if a = k then b else memGet rest a

/-- Puts a cell in its place, or takes it out where the byte is what an unlisted address reads as. -/
def putCell (a : Nat) (b : Byte) : Memory → Memory
  | [] => if b = resetByte a then [] else [(a, b)]
  | (k, c) :: rest =>
    if a < k then (if b = resetByte a then (k, c) :: rest else (a, b) :: (k, c) :: rest)
    else if a = k then (if b = resetByte a then rest else (a, b) :: rest)
    else (k, c) :: putCell a b rest

/-- A store of one byte, without the bound of R68. There is no byte above 0xFFF (R61), so nothing changes there; no
instruction stores there (log entry 14). -/
def memSet (m : Memory) (a : Nat) (b : Byte) : Memory :=
  if a < Config.memSize then putCell a b m else m

/-- The cells of a program image, copied verbatim from 0x200 up (spec/70_reset_and_hazards.md R263). -/
def imageCells (a : Nat) : List Byte → Memory
  | [] => []
  | b :: rest => if b = resetByte a then imageCells (a + 1) rest else (a, b) :: imageCells (a + 1) rest

/-- Memory after a reset with an image that fits (spec/70_reset_and_hazards.md R261). -/
def loadImage (image : List Byte) : Memory := imageCells Config.progBase image

end Sys2Proof.Machine
end

