-- ==== Sys2Proof/Machine/State.lean ====
section
/-! DEFINITION. The state of the block (spec/10_state.md R20) as plain data, the inputs and outputs at its edge, and the
state after reset (R43). -/

namespace Sys2Proof.Machine

/-- `status`: whether the engine still executes (spec/10_state.md R36). -/
inductive Status where
  | run
  | ended
  | fault
  deriving DecidableEq, Repr

/-- The encoding of `status` (R36). -/
def Status.code : Status → BitVec 2
  | .run => 0
  | .ended => 1
  | .fault => 2

/-- `cause`: which fault, `none` while `status` is not `FAULT` (R36, spec/60_exceptions.md R223). -/
inductive Cause where
  | none
  | fetchAddressRange
  | unknownInstruction
  | callStackOverflow
  | loadOverflow
  | dataAddressRange
  deriving DecidableEq, Repr

/-- The code that the 3-bit register `cause` holds (spec/60_exceptions.md R223). -/
def Cause.code : Cause → BitVec 3
  | .none => 0
  | .fetchAddressRange => 1
  | .unknownInstruction => 2
  | .callStackOverflow => 3
  | .loadOverflow => 4
  | .dataAddressRange => 5

/-- A fault of the hardware with the `info` it reports (spec/60_exceptions.md R223). -/
inductive Exc where
  /-- The fetch would read outside memory; `info` is `PC` (R224). -/
  | fetchAddressRange (pc : Word)
  /-- The fetched word is no instruction; `info` is the word (R225). -/
  | unknownInstruction (w : Word)
  /-- A call with the stack full; `info` is `PC` (R226). -/
  | callStackOverflow (pc : Word)
  /-- A program image that does not fit; `info` is its length (R228). -/
  | loadOverflow (length : Nat)
  /-- A data access above 0xFFF; `info` is the lowest such address (R227). -/
  | dataAddressRange (addr : Nat)
  deriving DecidableEq, Repr

/-- The cause of a fault (R223). -/
def Exc.cause : Exc → Cause
  | .fetchAddressRange _ => .fetchAddressRange
  | .unknownInstruction _ => .unknownInstruction
  | .callStackOverflow _ => .callStackOverflow
  | .loadOverflow _ => .loadOverflow
  | .dataAddressRange _ => .dataAddressRange

/-- The outcome of a tick, an output of the block (spec/10_state.md R39, spec/60_exceptions.md R221). -/
inductive TickOutcome where
  | completed
  | waiting
  | ended
  | fault (e : Exc)
  | stopped
  deriving DecidableEq, Repr

/-- The host's moves that change something (spec/60_exceptions.md R244). -/
inductive HostMove where
  /-- One cycle, with the key and the random byte of this tick (R220). -/
  | tick (key : Option Nibble) (rnd : Byte)
  /-- Reset with a program image (spec/70_reset_and_hazards.md R260). -/
  | reset (image : List Byte)
  /-- Clear `redraw_req` (spec/10_state.md R40). -/
  | redrawAck
  /-- Clear `beep_req` (spec/10_state.md R40). -/
  | beepAck
  deriving DecidableEq, Repr

/-- The general registers (spec/10_state.md R21). -/
abbrev RegFile := Vector Byte 16

/-- The call stack's entries (spec/10_state.md R29). -/
abbrev CallStack := Vector Word 16

/-- The framebuffer, 32 rows of 64 cells (spec/10_state.md R33); `true` is a cell of 1. -/
abbrev Framebuffer := Vector (Vector Bool 64) 32

/-- The state: the components of R20, and three fields of the model's own for the outputs and inputs at the block's edge. -/
structure State where
  /-- `MEM` (spec/20_memory.md R61). -/
  mem : Memory
  /-- `V[0..15]` (R21). -/
  v : RegFile
  /-- `I` (R28). -/
  i : Word
  /-- `PC` (R24). -/
  pc : Word
  /-- `STACK[0..15]` (R29). -/
  stack : CallStack
  /-- `SP`, 0 to 16 (R30; log entry 12). -/
  sp : Fin 17
  /-- `DT` (R31). -/
  dt : Byte
  /-- `ST` (R32). -/
  st : Byte
  /-- `FB[0..31][0..63]` (R33). -/
  fb : Framebuffer
  /-- `redraw_req` (R34). -/
  redrawReq : Bool
  /-- `beep_req` (R35). -/
  beepReq : Bool
  /-- `status` (R36). -/
  status : Status
  /-- `cause` (R36). -/
  cause : Cause
  /-- The outcome of the last tick, an output (R39); none before the first (log entry 3). -/
  outcome : Option TickOutcome
  /-- The host's next moves, oldest first (R37 to R40, spec/60_exceptions.md R244; log entry 1). -/
  schedule : List HostMove
  /-- How many ticks have run; the index of the free inputs (log entry 2). -/
  ticks : Nat
  deriving DecidableEq, Repr

/-- Why the machine stops with no next state. Nothing does: every fault of this hardware is an effect the spec describes
(spec/60_exceptions.md R221, R229), and the machine takes it as a next state, so the type has no constructor (log entry 4).
Safe. -/
inductive Fault where
  deriving DecidableEq, Repr

/-- Why the model gives an instruction no meaning. -/
inductive Refusal where
  /-- Raised only by an arm of `exec` whose instruction has no meaning yet; no arm does. Safe: nothing is claimed there. -/
  | notModelled (mnemonic : String)
  deriving DecidableEq, Repr

/-- The blank framebuffer (R33, R43). -/
def Framebuffer.blank : Framebuffer := Vector.replicate 32 (Vector.replicate 64 false)

/-- The state after a reset with the empty program image (R43, spec/70_reset_and_hazards.md R261, R265); the fields of the
model's own as log entries 1 to 3 say. -/
def State.reset : State where
  mem := []
  v := Vector.replicate 16 0
  i := 0
  pc := BitVec.ofNat 16 Config.progBase
  stack := Vector.replicate 16 0
  sp := 0
  dt := 0
  st := 0
  fb := Framebuffer.blank
  redrawReq := false
  beepReq := false
  status := .run
  cause := .none
  outcome := none
  schedule := []
  ticks := 0

end Sys2Proof.Machine
end

