-- ==== Sys2Proof/Machine/Operands.lean ====
section
/-! DEFINITION. The operand forms (spec/30_encoding.md R93): registers, zero-extended immediates, the data address
`I + k`, the key predicate, the inputs of a tick. -/

namespace Sys2Proof.Machine

/-- Read of register `x` in a register file (spec/10_state.md R21). -/
def RegFile.read (v : RegFile) (x : Reg) : Byte := v[x.toNat]'x.isLt

/-- Write of register `x` in a register file (spec/10_state.md R21). -/
def RegFile.write (v : RegFile) (x : Reg) (b : Byte) : RegFile := v.set x.toNat b x.isLt

/-- `V[x]` (R8). -/
def State.reg (s : State) (x : Reg) : Byte := s.v.read x

/-- `zext_16` of an address (R93). -/
def zextAddr (nnn : Addr12) : Word := nnn.setWidth 16

/-- `zext_16` of a byte (R93). -/
def zextByte (b : Byte) : Word := b.setWidth 16

/-- `zext_8` of a key code (spec/43_keypad_timers.md R180, R184). -/
def zextKey (k : Nibble) : Byte := k.setWidth 8

/-- The key input of this tick: what the host presents, free where the schedule does not say (spec/10_state.md R37). -/
def State.key (s : State) : Option Nibble :=
  match s.schedule with
  | .tick k _ :: _ => k
  | _ => Config.freeKey s.ticks

/-- The random input of this tick: what the environment presents, free where the schedule does not say (R38). -/
def State.rnd (s : State) : Byte :=
  match s.schedule with
  | .tick _ r :: _ => r
  | _ => Config.freeRnd s.ticks

/-- `pressed(v)`: the key is a code `k` and `zext_8(k) = v` (spec/43_keypad_timers.md R180). -/
def pressed (key : Option Nibble) (v : Byte) : Bool :=
  match key with
  | some k => zextKey k == v
  | none => false

/-- How many registers `LD [I],Vx` and `LD Vx,[I]` copy: `X + 1` (spec/44_index_memory.md R203, R204). -/
def regCount (x : Reg) : Nat := x.toNat + 1

/-- The address of the data byte at offset `k` from `I`: the sum without wrap, or modulo 4096 under `wrap12`
(spec/44_index_memory.md R206, spec/20_memory.md R68). -/
def dataAddr (oob : Config.DataOob) (i : Word) (k : Nat) : Nat :=
  match oob with
  | .fault => i.toNat + k
  | .wrap12 => (i.toNat + k) % Config.memSize

/-- The fault of an instruction that accesses `n` bytes from `I` on: where the highest address is above 0xFFF, the lowest
such address (spec/20_memory.md R68, spec/60_exceptions.md R227). No access, no fault. -/
def dataFault (oob : Config.DataOob) (i : Word) (n : Nat) : Option Exc :=
  match oob with
  | .fault => if 0 < n ∧ 0xFFF < i.toNat + n - 1 then some (.dataAddressRange (max i.toNat 0x1000)) else none
  | .wrap12 => none

/-- The address of the font glyph of a value: `V[x] * 5` (spec/44_index_memory.md R202). -/
def glyphAddr (b : Byte) : Word := zextByte b * 5

/-- The hundreds digit of a byte (spec/44_index_memory.md R205). -/
def bcdHundreds (b : Byte) : Byte := BitVec.ofNat 8 (b.toNat / 100)
/-- The tens digit of a byte (spec/44_index_memory.md R205). -/
def bcdTens (b : Byte) : Byte := BitVec.ofNat 8 (b.toNat / 10 % 10)
/-- The units digit of a byte (spec/44_index_memory.md R205). -/
def bcdUnits (b : Byte) : Byte := BitVec.ofNat 8 (b.toNat % 10)

end Sys2Proof.Machine
end

