-- ==== Sys2Proof/Machine/Ops.lean ====
section
/-! DEFINITION. The shared operations over registers, memory and the framebuffer, the ways a dispatch ends, and the taking
of a fault (spec/60_exceptions.md R229). -/

namespace Sys2Proof.Machine

/-! ### Single pieces of state -/

/-- `V[x] <- b` (spec/10_state.md R21). -/
def State.setReg (s : State) (x : Reg) (b : Byte) : State := { s with v := s.v.write x b }

/-- The whole register file. -/
def State.setV (s : State) (v : RegFile) : State := { s with v := v }

/-- `I <- w` (spec/10_state.md R28). -/
def State.setI (s : State) (w : Word) : State := { s with i := w }

/-- `pc <- target` (spec/10_state.md R24). -/
def State.setPc (s : State) (w : Word) : State := { s with pc := w }

/-- `DT <- b` (spec/10_state.md R31). -/
def State.setDt (s : State) (b : Byte) : State := { s with dt := b }

/-- `ST <- b` (spec/10_state.md R32). -/
def State.setSt (s : State) (b : Byte) : State := { s with st := b }

/-- Main memory as a whole (spec/20_memory.md R61). -/
def State.setMem (s : State) (m : Memory) : State := { s with mem := m }

/-- The framebuffer as a whole, with the redraw request that every write of it makes (spec/10_state.md R33, R34). -/
def State.setFb (s : State) (fb : Framebuffer) : State := { s with fb := fb, redrawReq := true }

/-- `pc <- pc + 2`, normal completion (spec/10_state.md R25, R27). -/
def State.next (s : State) : State := s.setPc (s.pc + 2)

/-- `pc <- pc + 4` where the skip is taken, `pc + 2` otherwise (spec/10_state.md R25, spec/40_control_transfer.md R120). -/
def State.skipIf (s : State) (c : Bool) : State := s.setPc (s.pc + (if c then 4 else 2))

/-- `STACK[SP] <- w; SP <- SP + 1`, where an entry is free (spec/40_control_transfer.md R123). -/
def State.push (s : State) (w : Word) (h : s.sp.val < 16) : State :=
  { s with stack := s.stack.set s.sp.val w h, sp := ⟨s.sp.val + 1, by omega⟩ }

/-- The newest entry `STACK[SP-1]` of a stack in use (spec/10_state.md R30). -/
def State.top (s : State) (h : 0 < s.sp.val) : Word := s.stack[s.sp.val - 1]'(by omega)

/-- `SP <- SP - 1`; the entry is left as it was (spec/40_control_transfer.md R121). -/
def State.pop (s : State) : State := { s with sp := ⟨s.sp.val - 1, by omega⟩ }

/-! ### The ways a dispatch ends (spec/60_exceptions.md R220, R221) -/

/-- The dispatch performed its writes (R220). -/
def State.completed (s : State) : State := { s with outcome := some .completed }

/-- A null cycle: no state changes (spec/43_keypad_timers.md R184). -/
def State.waiting (s : State) : State := { s with outcome := some .waiting }

/-- The program end: `status <- ENDED`, nothing else changes (R232). -/
def State.programEnd (s : State) : State := { s with status := .ended, outcome := some .ended }

/-- TAKING A FAULT, the one shared operation: `status <- FAULT; cause <- c`, and nothing else of the state changes; `PC`
stays on the instruction, no register is saved, control goes nowhere (R229, R234). There is no return from it: only
`State.hostReset` leaves the stopped engine (R230, R235). -/
def State.raised (s : State) (e : Exc) : State :=
  { s with status := .fault, cause := e.cause, outcome := some (.fault e) }

/-- A dispatch that completes. -/
def complete (s : State) : Host.Outcome State Fault Refusal := .next s.completed

/-- A dispatch that takes a fault. -/
def raise (e : Exc) (s : State) : Host.Outcome State Fault Refusal := .next (s.raised e)

/-- A dispatch that accesses `n` data bytes from `I` on: it checks them all before it performs any (spec/20_memory.md R68),
and completes in `t` where none lies above 0xFFF. -/
def completeAccess (oob : Config.DataOob) (n : Nat) (s t : State) : Host.Outcome State Fault Refusal :=
  match dataFault oob s.i n with
  | some e => raise e s
  | none => complete t

/-! ### Flagged results (spec/41_register_alu.md R140) -/

/-- The flag and one result, in the order `FLAG_ORDER` names (R140 (c)). -/
def writeFlagged (order : Config.FlagOrder) (v : RegFile) (x : Reg) (result flag : Byte) : RegFile :=
  match order with
  | .flagFirst => (v.write flagReg flag).write x result
  | .flagLast => (v.write x result).write flagReg flag

/-- The flag and a shift's result, which goes to `V[y]` and then to `V[x]` (R149, R151). -/
def writeShifted (order : Config.FlagOrder) (v : RegFile) (x y : Reg) (result flag : Byte) : RegFile :=
  match order with
  | .flagFirst => ((v.write flagReg flag).write y result).write x result
  | .flagLast => ((v.write y result).write x result).write flagReg flag

/-- The register a shift reads, by `SHIFT_SRC` (R149; log entry 9). -/
def shiftOperand (src : Config.ShiftSrc) (v : RegFile) (x y : Reg) : Byte :=
  match src with
  | .vy => v.read y
  | .vx => v.read x

/-! ### Blocks of memory at `I` (spec/44_index_memory.md R203 to R205) -/

/-- Stores bytes at the offsets `k, k+1, …` from `I`, in ascending order. -/
def storeBytes (oob : Config.DataOob) (i : Word) : Nat → List Byte → Memory → Memory
  | _, [], m => m
  | k, b :: rest, m => storeBytes oob i (k + 1) rest (memSet m (dataAddr oob i k) b)

/-- The `n` bytes at the offsets `k, k+1, …` from `I`. -/
def loadBytes (oob : Config.DataOob) (i : Word) (m : Memory) : Nat → Nat → List Byte
  | _, 0 => []
  | k, n + 1 => memGet m (dataAddr oob i k) :: loadBytes oob i m (k + 1) n

/-- The values of `n` registers from `V[k]` on. -/
def regBytes (v : RegFile) : Nat → Nat → List Byte
  | _, 0 => []
  | k, n + 1 => v.read (BitVec.ofNat 4 k) :: regBytes v (k + 1) n

/-- Writes bytes to the registers `V[k], V[k+1], …`, in ascending order. -/
def writeRegs : Nat → List Byte → RegFile → RegFile
  | _, [], v => v
  | k, b :: rest, v => writeRegs (k + 1) rest (v.write (BitVec.ofNat 4 k) b)

/-! ### The framebuffer (spec/42_display.md) -/

/-- `FB[y][x]` (R8). -/
def Framebuffer.cell (fb : Framebuffer) (x : Fin 64) (y : Fin 32) : Bool := (fb[y.val])[x.val]

/-- Toggles one cell: `FB[y][x] <- FB[y][x] ^ 1` (R171). -/
def Framebuffer.toggle (fb : Framebuffer) (x : Fin 64) (y : Fin 32) : Framebuffer :=
  fb.set y.val ((fb[y.val]).set x.val (!fb.cell x y))

/-- A framebuffer being drawn on, and whether a cell has gone from 1 to 0 (R171). -/
structure Canvas where
  fb  : Framebuffer
  hit : Bool
  deriving DecidableEq, Repr

/-- The cell of the pixel at row `r`, column `c` of a sprite at `(x0, y0)`: each coordinate reduced on its own, and none
under `clip` for a pixel past an edge (R173). -/
def pixelCell (edge : Config.DrawEdge) (x0 y0 r c : Nat) : Option (Fin 64 × Fin 32) :=
  match edge with
  | .wrap => some (Fin.ofNat 64 (x0 + c), Fin.ofNat 32 (y0 + r))
  | .clip => if x0 % 64 + c > 63 ∨ y0 % 32 + r > 31 then none else some (Fin.ofNat 64 (x0 + c), Fin.ofNat 32 (y0 + r))

/-- One pixel whose sprite bit is 1 (R171). -/
def Canvas.plot (cv : Canvas) (at? : Option (Fin 64 × Fin 32)) : Canvas :=
  match at? with
  | some (x, y) => { fb := cv.fb.toggle x y, hit := cv.hit || cv.fb.cell x y }
  | none => cv

/-- The pixels of one sprite row from column `c` on, left to right, `left` of them; bit 7 is the leftmost (R171, R172). -/
def drawPixels (edge : Config.DrawEdge) (x0 y0 r : Nat) (b : Byte) : Nat → Nat → Canvas → Canvas
  | _, 0, cv => cv
  | c, left + 1, cv =>
    drawPixels edge x0 y0 r b (c + 1) left
      (if b.getLsbD (7 - c) then cv.plot (pixelCell edge x0 y0 r c) else cv)

/-- The rows of a sprite from row `r` on, top to bottom (R171). -/
def drawRows (edge : Config.DrawEdge) (x0 y0 : Nat) : Nat → List Byte → Canvas → Canvas
  | _, [], cv => cv
  | r, b :: rest, cv => drawRows edge x0 y0 (r + 1) rest (drawPixels edge x0 y0 r b 0 8 cv)

/-- A whole sprite on a framebuffer, with the collision (R171). -/
def drawSprite (edge : Config.DrawEdge) (x0 y0 : Nat) (rows : List Byte) (fb : Framebuffer) : Canvas :=
  drawRows edge x0 y0 0 rows { fb := fb, hit := false }

/-! ### The host's moves (spec/60_exceptions.md R244) -/

/-- Reset with a program image: every piece of state takes its reset value and the image is copied in; one that does not
fit is not copied at all and raises `LoadOverflow` (spec/70_reset_and_hazards.md R261, R264). The host's own schedule and
the tick count are not the block's state and stay (log entry 2). -/
def State.hostReset (s : State) (image : List Byte) : State :=
  if imageOk image then { State.reset with mem := loadImage image, schedule := s.schedule, ticks := s.ticks }
  else { State.reset.raised (.loadOverflow image.length) with schedule := s.schedule, ticks := s.ticks }

/-- `redraw_ack` (spec/10_state.md R40). -/
def State.ackRedraw (s : State) : State := { s with redrawReq := false }

/-- `beep_ack` (spec/10_state.md R40). -/
def State.ackBeep (s : State) : State := { s with beepReq := false }

end Sys2Proof.Machine
end

