-- ==== Sys2Proof/Machine/Alu.lean ====
section
/-! DEFINITION. Registers and arithmetic (spec/41_register_alu.md). Operands are read first, from the state at the start of
the cycle (R140 (a)). -/

namespace Sys2Proof.Machine

/-- `LD Vx,NN` (R141). -/
def execLdImm (x : Reg) (nn : Byte) (s : State) : Host.Outcome State Fault Refusal :=
  complete (s.setReg x nn).next

/-- `ADD Vx,NN` (R142): modulo 256, no flag. -/
def execAddImm (x : Reg) (nn : Byte) (s : State) : Host.Outcome State Fault Refusal :=
  complete (s.setReg x (s.reg x + nn)).next

/-- `LD Vx,Vy` (R143). -/
def execLdReg (x y : Reg) (s : State) : Host.Outcome State Fault Refusal :=
  complete (s.setReg x (s.reg y)).next

/-- `OR Vx,Vy` (R144). -/
def execOrReg (x y : Reg) (s : State) : Host.Outcome State Fault Refusal :=
  complete (s.setReg x (s.reg x ||| s.reg y)).next

/-- `AND Vx,Vy` (R145). -/
def execAndReg (x y : Reg) (s : State) : Host.Outcome State Fault Refusal :=
  complete (s.setReg x (s.reg x &&& s.reg y)).next

/-- `XOR Vx,Vy` (R146). -/
def execXorReg (x y : Reg) (s : State) : Host.Outcome State Fault Refusal :=
  complete (s.setReg x (s.reg x ^^^ s.reg y)).next

/-- `ADD Vx,Vy` (R147). -/
def execAddReg (x y : Reg) (s : State) : Host.Outcome State Fault Refusal :=
  complete (s.setV (writeFlagged flagOrder s.v x (s.reg x + s.reg y) (carryFlag (s.reg x) (s.reg y)))).next

/-- `SUB Vx,Vy` (R148). -/
def execSubReg (x y : Reg) (s : State) : Host.Outcome State Fault Refusal :=
  complete (s.setV (writeFlagged flagOrder s.v x (s.reg x - s.reg y) (noBorrowFlag (s.reg x) (s.reg y)))).next

/-- `SHR Vx,Vy` (R149). -/
def execShr (x y : Reg) (s : State) : Host.Outcome State Fault Refusal :=
  complete (s.setV (writeShifted flagOrder s.v x y
    (shiftOperand shiftSrc s.v x y >>> 1) (shrFlag (shiftOperand shiftSrc s.v x y)))).next

/-- `SUBN Vx,Vy` (R150). -/
def execSubn (x y : Reg) (s : State) : Host.Outcome State Fault Refusal :=
  complete (s.setV (writeFlagged flagOrder s.v x (s.reg y - s.reg x) (noBorrowFlag (s.reg y) (s.reg x)))).next

/-- `SHL Vx,Vy` (R151). -/
def execShl (x y : Reg) (s : State) : Host.Outcome State Fault Refusal :=
  complete (s.setV (writeShifted flagOrder s.v x y
    (shiftOperand shiftSrc s.v x y <<< 1) (shlFlag (shiftOperand shiftSrc s.v x y)))).next

/-- `RND Vx,NN` (R152): the random input of this tick, masked. -/
def execRnd (x : Reg) (nn : Byte) (s : State) : Host.Outcome State Fault Refusal :=
  complete (s.setReg x (s.rnd &&& nn)).next

end Sys2Proof.Machine
end

