-- ==== Sys2Proof/Machine/Control.lean ====
section
/-! DEFINITION. Control transfer (spec/40_control_transfer.md). -/

namespace Sys2Proof.Machine

/-- `RET` (R121): the program end on an empty stack, else resume after the call. -/
def execRet (s : State) : Host.Outcome State Fault Refusal :=
  if h : 0 < s.sp.val then complete (s.pop.setPc (s.top h + 2)) else .next s.programEnd

/-- `JP NNN` (R122). -/
def execJp (nnn : Addr12) (s : State) : Host.Outcome State Fault Refusal :=
  complete (s.setPc (zextAddr nnn))

/-- `CALL NNN` (R123): it stacks its own address; a full stack raises `CallStackOverflow` (spec/60_exceptions.md R226). -/
def execCall (nnn : Addr12) (s : State) : Host.Outcome State Fault Refusal :=
  if h : s.sp.val < 16 then complete ((s.push s.pc h).setPc (zextAddr nnn)) else raise (.callStackOverflow s.pc) s

/-- `SE Vx,NN` (R124). -/
def execSeImm (x : Reg) (nn : Byte) (s : State) : Host.Outcome State Fault Refusal :=
  complete (s.skipIf (s.reg x == nn))

/-- `SNE Vx,NN` (R125). -/
def execSneImm (x : Reg) (nn : Byte) (s : State) : Host.Outcome State Fault Refusal :=
  complete (s.skipIf (s.reg x != nn))

/-- `SE Vx,Vy` (R126). -/
def execSeReg (x y : Reg) (s : State) : Host.Outcome State Fault Refusal :=
  complete (s.skipIf (s.reg x == s.reg y))

/-- `SNE Vx,Vy` (R127). -/
def execSneReg (x y : Reg) (s : State) : Host.Outcome State Fault Refusal :=
  complete (s.skipIf (s.reg x != s.reg y))

/-- `JP V0,NNN` (R128): the sum of 16 bits, not reduced to 12. -/
def execJpV0 (nnn : Addr12) (s : State) : Host.Outcome State Fault Refusal :=
  complete (s.setPc (zextByte (s.reg 0) + zextAddr nnn))

end Sys2Proof.Machine
end

