-- ==== Sys2Proof/Machine/Display.lean ====
section
/-! DEFINITION. The display (spec/42_display.md). -/

namespace Sys2Proof.Machine

/-- `CLS` (R170). -/
def execCls (s : State) : Host.Outcome State Fault Refusal :=
  complete (s.setFb Framebuffer.blank).next

/-- The framebuffer and the collision that `DRW Vx,Vy,N` leaves (R171), by the two parameters. -/
def drawn (oob : Config.DataOob) (edge : Config.DrawEdge) (x y : Reg) (n : Nibble) (s : State) : Canvas :=
  drawSprite edge (s.reg x).toNat (s.reg y).toNat (loadBytes oob s.i s.mem 0 n.toNat) s.fb

/-- `DRW Vx,Vy,N` (R171): `VF` is written in every completed draw, after the position was read. -/
def execDrw (x y : Reg) (n : Nibble) (s : State) : Host.Outcome State Fault Refusal :=
  completeAccess dataOob n.toNat s
    ((s.setFb (drawn dataOob drawEdge x y n s).fb).setReg flagReg
      (collisionFlag (drawn dataOob drawEdge x y n s).hit)).next

end Sys2Proof.Machine
end

