-- ==== Sys2Proof/Machine/Index.lean ====
section
/-! DEFINITION. The index register and memory transfer (spec/44_index_memory.md). -/

namespace Sys2Proof.Machine

/-- `LD I,NNN` (R200). -/
def execLdI (nnn : Addr12) (s : State) : Host.Outcome State Fault Refusal :=
  complete (s.setI (zextAddr nnn)).next

/-- `ADD I,Vx` (R201): modulo 2^16, no flag. -/
def execAddI (x : Reg) (s : State) : Host.Outcome State Fault Refusal :=
  complete (s.setI (s.i + zextByte (s.reg x))).next

/-- `LD F,Vx` (R202). -/
def execLdF (x : Reg) (s : State) : Host.Outcome State Fault Refusal :=
  complete (s.setI (glyphAddr (s.reg x))).next

/-- `LD [I],Vx` (R203): `V[0]` to `V[x]` stored from `I` on, then `I` moved past them. -/
def execStoreRegs (x : Reg) (s : State) : Host.Outcome State Fault Refusal :=
  completeAccess dataOob (regCount x) s
    ((s.setMem (storeBytes dataOob s.i 0 (regBytes s.v 0 (regCount x)) s.mem)).setI
      (s.i + BitVec.ofNat 16 (regCount x))).next

/-- `LD Vx,[I]` (R204): `V[0]` to `V[x]` loaded from `I` on, then `I` moved past them. -/
def execLoadRegs (x : Reg) (s : State) : Host.Outcome State Fault Refusal :=
  completeAccess dataOob (regCount x) s
    ((s.setV (writeRegs 0 (loadBytes dataOob s.i s.mem 0 (regCount x)) s.v)).setI
      (s.i + BitVec.ofNat 16 (regCount x))).next

/-- `BCD Vx` (R205): three digits at `I`, `I+1`, `I+2`; `I` stays. -/
def execBcd (x : Reg) (s : State) : Host.Outcome State Fault Refusal :=
  completeAccess dataOob 3 s
    (s.setMem (storeBytes dataOob s.i 0
      [bcdHundreds (s.reg x), bcdTens (s.reg x), bcdUnits (s.reg x)] s.mem)).next

end Sys2Proof.Machine
end

