-- ==== Sys2Proof/Machine/Keypad.lean ====
section
/-! DEFINITION. Keypad and timers (spec/43_keypad_timers.md). -/

namespace Sys2Proof.Machine

/-- `SKP Vx` (R181). -/
def execSkp (x : Reg) (s : State) : Host.Outcome State Fault Refusal :=
  complete (s.skipIf (pressed s.key (s.reg x)))

/-- `SKNP Vx` (R182). -/
def execSknp (x : Reg) (s : State) : Host.Outcome State Fault Refusal :=
  complete (s.skipIf (!pressed s.key (s.reg x)))

/-- `LD Vx,DT` (R183): the value before this cycle's timer step. -/
def execLdVxDt (x : Reg) (s : State) : Host.Outcome State Fault Refusal :=
  complete (s.setReg x s.dt).next

/-- The state that `LD Vx,K` leaves: a null cycle with no key, else the key's code in `V[x]` (R184). -/
def keyTaken (x : Reg) (s : State) : State :=
  match s.key with
  | none => s.waiting
  | some k => (s.setReg x (zextKey k)).next.completed

/-- `LD Vx,K` (R184). -/
def execLdVxK (x : Reg) (s : State) : Host.Outcome State Fault Refusal :=
  .next (keyTaken x s)

/-- `LD DT,Vx` (R185). -/
def execLdDtVx (x : Reg) (s : State) : Host.Outcome State Fault Refusal :=
  complete (s.setDt (s.reg x)).next

/-- `LD ST,Vx` (R186). -/
def execLdStVx (x : Reg) (s : State) : Host.Outcome State Fault Refusal :=
  complete (s.setSt (s.reg x)).next

end Sys2Proof.Machine
end

