-- ==== Sys2Proof/Machine/Cycle.lean ====
section
/-! DEFINITION. The cycle (spec/60_exceptions.md R220): fetch, decode, dispatch, timer step; and the host's moves, one
each step (R244). -/

namespace Sys2Proof.Machine

/-- The instruction fetch `MemRead(pc, 2)`: big-endian, no alignment, no wrap (spec/20_memory.md R64, R66, R67, R69). -/
def fetchWord (m : Memory) (pc : Word) : Except Exc Word :=
  if pc.toNat > 0xFFE then .error (.fetchAddressRange pc)
  else .ok (bytesToWord (memGet m pc.toNat) (memGet m (pc.toNat + 1)))

/-- The timer step (R222): each timer counts down by 1 while above 0, and the step that takes `ST` from 1 to 0 requests a
beep. -/
def State.timerStep (s : State) : State :=
  { s with
    dt := if s.dt = 0 then 0 else s.dt - 1
    st := if s.st = 0 then 0 else s.st - 1
    beepReq := s.beepReq || decide (s.st = 1) }

/-- The end of a tick: its inputs are used up, and the count of ticks moves on (log entries 1, 2). -/
def State.endTick (s : State) : State := { s with schedule := s.schedule.tail, ticks := s.ticks + 1 }

/-- After the dispatch: the timer step, only where the dispatch completed (R220, R222), and the end of the tick. -/
def State.finish (s : State) : State :=
  if s.outcome = some .completed then s.timerStep.endTick else s.endTick

/-- The rest of the cycle after a dispatch. -/
def afterDispatch : Host.Outcome State Fault Refusal → Host.Outcome State Fault Refusal
  | .next s => .next s.finish
  | .fault r => .fault r
  | .refused r => .refused r

/-- What the cycle does with the fetched word: decode, then dispatch (R220, R225). -/
def runWord (w : Word) (s : State) : Host.Outcome State Fault Refusal :=
  match decodeWord w with
  | .error _ => raise (.unknownInstruction w) s
  | .ok i => exec i s

/-- One cycle of a running engine: the checks in the order of R231. -/
def cycle (s : State) : Host.Outcome State Fault Refusal :=
  match fetchWord s.mem s.pc with
  | .error e => afterDispatch (raise e s)
  | .ok w => afterDispatch (runWord w s)

/-- One `tick` (R220): a stopped engine does nothing (R230). -/
def tick (s : State) : Host.Outcome State Fault Refusal :=
  match s.status with
  | .run => cycle s
  | _ => .next { s with outcome := some .stopped }.endTick

/-- One move of the host (R244): the next one it has scheduled, else a tick with free inputs (log entry 1). -/
def hostStep (s : State) : Host.Outcome State Fault Refusal :=
  match s.schedule with
  | [] => tick s
  | .tick _ _ :: _ => tick s
  | .reset image :: rest => .next { s.hostReset image with schedule := rest }
  | .redrawAck :: rest => .next { s.ackRedraw with schedule := rest }
  | .beepAck :: rest => .next { s.ackBeep with schedule := rest }

/-- The host's next move is a tick. -/
def nextIsTick : List HostMove → Bool
  | [] => true
  | .tick _ _ :: _ => true
  | _ => false

/-- A state whose next step runs the word `w`: the word stands where the fetch reads it, the engine runs and the host's
next move is a tick (log entry 13). -/
def State.placeWord (s : State) (w : Word) : State :=
  let pc : Word := if s.pc.toNat > 0xFFE then BitVec.ofNat 16 Config.progBase else s.pc
  { s with
    pc := pc
    mem := memSet (memSet s.mem pc.toNat (hiByte w)) (pc.toNat + 1) (loByte w)
    status := .run
    cause := .none
    schedule := s.schedule.dropWhile (fun mv => !nextIsTick [mv]) }

end Sys2Proof.Machine
end

