-- ==== Sys2Proof/Machine/Step.lean ====
section
/-! DEFINITION. One step of the machine: one move of the host, as a rule one tick (spec/60_exceptions.md R220, R244). -/

namespace Sys2Proof.Machine

/-- One step: the host's next move. -/
def step (s : State) : Host.Outcome State Fault Refusal := hostStep s

/-- The state with an instruction's bits stored where the next step fetches it (log entry 13). Every instruction is one
16-bit word (spec/30_encoding.md R90). -/
def State.withFetchWord (s : State) (nbits w : Nat) : State := s.placeWord (BitVec.ofNat 16 (w % 2 ^ nbits))

end Sys2Proof.Machine
end

