-- ==== Sys2Proof/Safety.lean ====
section
/-! DEFINITION. The terms the statements use: what counts as a state left unchanged but for named pieces, the facts about a
state that every step keeps, and the pixels of a sprite. -/

namespace Sys2Proof.Safety

open Sys2Proof.Machine

/-- The pieces of state of spec/10_state.md R20, and the model's own inputs (log entries 1, 2) as one piece. -/
inductive Piece where
  | mem | v | i | pc | stack | sp | dt | st | fb | redrawReq | beepReq | status | cause | inputs
  deriving DecidableEq, Repr

/-- A piece of state reads the same in `t` as in `s`: memory byte by byte, registers one by one, the framebuffer cell by
cell. -/
def Unchanged (s t : State) : Piece → Prop
  | .mem => ∀ a, memGet t.mem a = memGet s.mem a
  | .v => ∀ r, t.reg r = s.reg r
  | .i => t.i = s.i
  | .pc => t.pc = s.pc
  | .stack => ∀ k : Fin 16, t.stack[k.val] = s.stack[k.val]
  | .sp => t.sp = s.sp
  | .dt => t.dt = s.dt
  | .st => t.st = s.st
  | .fb => ∀ x y, t.fb.cell x y = s.fb.cell x y
  | .redrawReq => t.redrawReq = s.redrawReq
  | .beepReq => t.beepReq = s.beepReq
  | .status => t.status = s.status
  | .cause => t.cause = s.cause
  | .inputs => t.schedule = s.schedule ∧ t.ticks = s.ticks

/-- Every piece of state outside `ps` is unchanged. -/
def KeepsAllBut (ps : List Piece) (s t : State) : Prop := ∀ p, p ∉ ps → Unchanged s t p

/-- The next step runs the instruction `i`: the engine runs, the host's next move is a tick, and the two bytes at `PC`
decode to `i` (spec/60_exceptions.md R220). -/
structure Runs (s : State) (i : Instr) : Prop where
  running : s.status = .run
  ticked : nextIsTick s.schedule = true
  fetchable : s.pc.toNat ≤ 0xFFE
  decoded : decodeWord (bytesToWord (memGet s.mem s.pc.toNat) (memGet s.mem (s.pc.toNat + 1))) = .ok i

/-- Memory keeps its canonical form; `cause` is set exactly in a fault (spec/10_state.md R36); a program ends only with an
empty stack (spec/60_exceptions.md R232). -/
structure Inv (s : State) : Prop where
  memWf : s.mem.wf
  causeIffFault : s.cause = .none ↔ s.status ≠ .fault
  endedEmpty : s.status = .ended → s.sp = 0

/-- The bounds of spec/10_state.md R27 on `PC` and on the stacked addresses in use, under which no arithmetic on `PC`
wraps. -/
structure PcBounded (s : State) : Prop where
  pcLe : s.pc.toNat ≤ 0x10FE
  stackLe : ∀ k : Fin 16, k.val < s.sp.val → (s.stack[k.val]).toNat ≤ 0xFFE

/-- The sprite bit that lands on the cell `(cx, cy)` when `n` rows from `I` are drawn at `(x0, y0)` with every coordinate
reduced on its own (spec/42_display.md R171 to R173): column `c`, row `r` with `(x0 + c) mod 64 = cx` and
`(y0 + r) mod 32 = cy`, bit `7 - c` of the byte at `I + r`. -/
def spriteBit (m : Memory) (i : Word) (x0 y0 n : Nat) (cx : Fin 64) (cy : Fin 32) : Bool :=
  let c := (cx.val + 64 - x0 % 64) % 64
  let r := (cy.val + 32 - y0 % 32) % 32
  decide (c < 8 ∧ r < n) && (memGet m (i.toNat + r)).getLsbD (7 - c)

/-- The instructions that read the key input (spec/10_state.md R37). -/
def readsKey : Instr → Bool
  | .skp _ | .sknp _ | .ldVxK _ => true
  | _ => false

/-- The instructions that read the random input (spec/10_state.md R38). -/
def readsRnd : Instr → Bool
  | .rnd _ _ => true
  | _ => false

/-- The instructions that write `VF` as a flag (spec/10_state.md R22). -/
def writesFlag : Instr → Bool
  | .addReg _ _ | .subReg _ _ | .subn _ _ | .shr _ _ | .shl _ _ | .drw _ _ _ => true
  | _ => false

/-- The instruction names the register as a destination (spec/10_state.md R23): its `X`, its `Y` where a shift writes it
too, or one of `V0` to `VX` for a load of registers. -/
def namesDest : Instr → Reg → Bool
  | .ldImm x _, r | .addImm x _, r | .ldReg x _, r | .orReg x _, r | .andReg x _, r | .xorReg x _, r
  | .addReg x _, r | .subReg x _, r | .subn x _, r | .rnd x _, r | .ldVxDt x, r | .ldVxK x, r => x == r
  | .shr x y, r | .shl x y, r => x == r || y == r
  | .loadRegs x, r => decide (r.toNat ≤ x.toNat)
  | _, _ => false

/-- The instructions that write main memory (spec/20_memory.md R60, R70). -/
def writesMemory : Instr → Bool
  | .storeRegs _ | .bcd _ => true
  | _ => false

/-- The instructions that write `I` (spec/10_state.md R28). -/
def writesIndex : Instr → Bool
  | .ldI _ | .addI _ | .ldF _ | .storeRegs _ | .loadRegs _ => true
  | _ => false

/-- The instructions that reach the call stack (spec/10_state.md R29, R30). -/
def usesStack : Instr → Bool
  | .call _ | .ret => true
  | _ => false

/-- The instructions that write the framebuffer (spec/10_state.md R33). -/
def writesDisplay : Instr → Bool
  | .cls | .drw _ _ _ => true
  | _ => false

/-- The instructions whose `PC` effect is an explicit target (spec/10_state.md R25). -/
def jumps : Instr → Bool
  | .jp _ | .call _ | .jpV0 _ | .ret => true
  | _ => false

/-- The instructions that may skip (spec/10_state.md R25). -/
def skips : Instr → Bool
  | .seImm _ _ | .sneImm _ _ | .seReg _ _ | .sneReg _ _ | .skp _ | .sknp _ => true
  | _ => false

/-- The delay timer as the dispatch of `i` leaves it: the register's value for `LD DT,Vx` (spec/43_keypad_timers.md R185). -/
def delayWritten (i : Instr) (s : State) : Byte :=
  match i with
  | .ldDtVx x => s.reg x
  | _ => s.dt

/-- The sound timer as the dispatch of `i` leaves it: the register's value for `LD ST,Vx` (spec/43_keypad_timers.md R186). -/
def soundWritten (i : Instr) (s : State) : Byte :=
  match i with
  | .ldStVx x => s.reg x
  | _ => s.st

/-- The instructions that access data memory, with how many bytes from `I` on (spec/20_memory.md R70). -/
def accessCount : Instr → Nat
  | .drw _ _ n => n.toNat
  | .bcd _ => 3
  | .storeRegs x | .loadRegs x => x.toNat + 1
  | _ => 0

end Sys2Proof.Safety
end

