-- ==== Sys2Proof/Certificates/Slice0/Obligations.lean ====
section
/-! DEFINITION. The statements for the provers. Each docstring names the rule of spec/ it formalises; where a clause rests
on a choice (the spec's own decision, or a log entry of the model), the docstring says so. -/

open Sys2Proof Sys2Proof.Machine Sys2Proof.Safety

/-! ### Encoding and decode (spec/30_encoding.md) -/

/-- Every instruction, with every operand at every value its field admits, decodes from its own encoding, whatever follows
it (R90 to R92, R100; the opcode numbers the source does not show are decision D9, log entry 16). -/
def Obligations.DecodeOfEncodeIsIdentity : Prop :=
  ∀ (i : Instr) (rest : List Byte), i.wellFormed = true → decode (encode i ++ rest) = .ok (i, rest)

/-- A word that decodes is the encoding of what it decodes to, but for the low nibble of families 0x5 and 0x9, which the
encoder writes as 0 (R99, decision D7, log entry 11; the two family numbers are decision D9, log entry 16). -/
def Obligations.EncodeOfDecodeIsCanonical : Prop :=
  ∀ (w : Word) (i : Instr), decodeWord w = .ok i →
    (opField w ≠ 5#4 → opField w ≠ 9#4 → encodeWord i = w) ∧
    (opField w = 5#4 ∨ opField w = 9#4 → encodeWord i = w &&& 0xFFF0#16)

/-- A word that decodes selects exactly one row of the opcode map, the one that bears the instruction's name; a word that is
`unknown` selects none (R100; the numbers are general knowledge by G1 of 93_implementation_defined.md). -/
def Obligations.DecodeSelectsTheOneRow : Prop :=
  ∀ w : Word, match decodeWord w with
    | .ok i => (opcodeRows.filter (·.selects w)).map (·.name) = [i.rowName]
    | .error e => e = .unknown w ∧ opcodeRows.filter (·.selects w) = []

/-- The `unknown` words, family by family (R101; in family 0x0 by decisions D7, D8; the numbers of the other families are decision
D9, log entry 16). -/
def Obligations.UnknownWordsByFamily : Prop :=
  ∀ w : Word, decodeWord w = .error (.unknown w) ↔
    (opField w = 0x0#4 ∧ w ≠ 0x00E0#16 ∧ w ≠ 0x00EE#16) ∨
    (opField w = 0x8#4 ∧ (nField w).toNat ∈ [8, 9, 0xA, 0xB, 0xC, 0xD, 0xF]) ∨
    (opField w = 0xE#4 ∧ (nnField w).toNat ∉ [0x9E, 0xA1]) ∨
    (opField w = 0xF#4 ∧ (nnField w).toNat ∉ [0x07, 0x0A, 0x15, 0x18, 0x1E, 0x29, 0x33, 0x55, 0x65])

/-- `SE Vx,Vy` and `SNE Vx,Vy` are selected by all 16 values of `w[3:0]` (R99, decision D7, log entry 11); that their families
are 0x5 and 0x9 the source does not show (decision D9, G1, log entry 16). -/
def Obligations.RegisterSkipsIgnoreLowNibble : Prop :=
  ∀ (x y : Reg) (n : Nibble),
    decodeWord (0x5#4 ++ x ++ y ++ n) = .ok (.seReg x y) ∧ decodeWord (0x9#4 ++ x ++ y ++ n) = .ok (.sneReg x y)

/-- Words of the worked examples and vectors of 95_test_vectors.md decode to what they stand for (S3 to S6, V-A, V-B, V-D,
V-E), a sanity check. The numbers behind 8126, E59E and F155 the source does not show (R100 marks them G: decision D9, G1,
log entry 16), and that 0000 is no instruction is decisions D7, D8. -/
def Obligations.SpecWordsDecode : Prop :=
  decode [0x00, 0xE0] = .ok (.cls, []) ∧ decode [0x00, 0xEE] = .ok (.ret, []) ∧
  decode [0x6A, 0x3C] = .ok (.ldImm 0xA 0x3C, []) ∧ decode [0xA2, 0x00] = .ok (.ldI 0x200, []) ∧
  decode [0xD0, 0x15] = .ok (.drw 0 1 5, []) ∧ decode [0x33, 0x00] = .ok (.seImm 3 0, []) ∧
  decode [0x81, 0x26] = .ok (.shr 1 2, []) ∧ decode [0xE5, 0x9E] = .ok (.skp 5, []) ∧
  decode [0xF1, 0x55] = .ok (.storeRegs 1, []) ∧ decode [0x00, 0x00] = .error (.unknown 0x0000)

/-! ### The cycle (spec/60_exceptions.md) -/

/-- The step of a running engine whose next move is a tick, on bytes that decode to `i`, is `exec i` followed by the timer
step where the dispatch completed and by nothing otherwise, and by the tick's inputs being used up (R220, R222; the last is
log entries 1 and 2). -/
def Obligations.StepRunsDecodedInstruction : Prop :=
  ∀ (s : State) (i : Instr), Runs s i → ∀ t : State, exec i s = .next t →
    (t.outcome = some .completed → step s = .next { t with
      dt := if t.dt = 0 then 0 else t.dt - 1
      st := if t.st = 0 then 0 else t.st - 1
      beepReq := t.beepReq || decide (t.st = 1)
      schedule := t.schedule.tail
      ticks := t.ticks + 1 }) ∧
    (t.outcome ≠ some .completed →
      step s = .next { t with schedule := t.schedule.tail, ticks := t.ticks + 1 })

/-- Every instruction in every state answers a next state with one of the outcomes of a dispatch, and each outcome other than
`completed` comes only of its own instruction and only under its condition (R220, R223; the data bound is decision D6). -/
def Obligations.DispatchHasOneOutcome : Prop :=
  ∀ (i : Instr) (s : State), ∃ t, exec i s = .next t ∧
    (t.outcome = some .completed ∨
     (t.outcome = some .waiting ∧ (∃ x, i = .ldVxK x) ∧ s.key = none) ∨
     (t.outcome = some .ended ∧ i = .ret ∧ s.sp.val = 0) ∨
     (t.outcome = some (.fault (.callStackOverflow s.pc)) ∧ (∃ nnn, i = .call nnn) ∧ s.sp.val = 16) ∨
     (t.outcome = some (.fault (.dataAddressRange (max s.i.toNat 0x1000))) ∧
       0 < accessCount i ∧ 0xFFF < s.i.toNat + accessCount i - 1))

/-- No step of any state ends without a next state: every fault of the hardware is a described effect (R221, R229; log
entry 4). -/
def Obligations.EveryStepAnswers : Prop := ∀ s : State, ∃ t, step s = .next t

/-- `FetchAddressRange` (R224): a tick at `PC > 0xFFE` stops the engine with cause 1 and changes
nothing else (decisions D2, D4). -/
def Obligations.FetchPastEndFaults : Prop :=
  ∀ s : State, s.status = .run → nextIsTick s.schedule = true → 0xFFE < s.pc.toNat →
    step s = .next { s with
      status := .fault
      cause := .fetchAddressRange
      outcome := some (.fault (.fetchAddressRange s.pc))
      schedule := s.schedule.tail
      ticks := s.ticks + 1 } ∧ Cause.fetchAddressRange.code = 1#3

/-- `UnknownInstruction` (R225): a tick on a word that is `unknown` stops the engine with cause 2 and
changes nothing else (decisions D2, D4). -/
def Obligations.UnknownWordFaults : Prop :=
  ∀ (s : State) (w : Word), s.status = .run → nextIsTick s.schedule = true → s.pc.toNat ≤ 0xFFE →
    w = bytesToWord (memGet s.mem s.pc.toNat) (memGet s.mem (s.pc.toNat + 1)) →
    decodeWord w = .error (.unknown w) →
    step s = .next { s with
      status := .fault
      cause := .unknownInstruction
      outcome := some (.fault (.unknownInstruction w))
      schedule := s.schedule.tail
      ticks := s.ticks + 1 } ∧ Cause.unknownInstruction.code = 2#3

/-- A tick that faults keeps none of its writes and runs no timer step; only `status` and `cause` change, and the fault is
one the state at its start explains (R229 by decision D4, R223, R231). -/
def Obligations.FaultingTickLeavesNoTrace : Prop :=
  ∀ (s t : State) (e : Exc), s.status = .run → nextIsTick s.schedule = true → step s = .next t →
    t.outcome = some (.fault e) →
    KeepsAllBut [.status, .cause, .inputs] s t ∧ t.status = .fault ∧ t.cause = e.cause ∧
    match e with
    | .fetchAddressRange p => p = s.pc ∧ 0xFFE < s.pc.toNat
    | .unknownInstruction w => s.pc.toNat ≤ 0xFFE ∧
        w = bytesToWord (memGet s.mem s.pc.toNat) (memGet s.mem (s.pc.toNat + 1)) ∧
        decodeWord w = .error (.unknown w)
    | .callStackOverflow p => p = s.pc ∧ s.sp.val = 16 ∧ ∃ nnn, Runs s (.call nnn)
    | .dataAddressRange a => a = max s.i.toNat 0x1000 ∧
        ∃ i, Runs s i ∧ 0 < accessCount i ∧ 0xFFF < s.i.toNat + accessCount i - 1
    | .loadOverflow _ => False

/-- A tick of a stopped engine changes nothing, timers included; its outcome is `stopped` (R230, decision D3). -/
def Obligations.StoppedTickChangesNothing : Prop :=
  ∀ s : State, s.status ≠ .run → nextIsTick s.schedule = true →
    step s = .next { s with
      outcome := some .stopped
      schedule := s.schedule.tail
      ticks := s.ticks + 1 }

/-- Only a reset brings a stopped engine back or changes its cause: after any other move of the host it is stopped as before
(R230, R36). -/
def Obligations.OnlyResetLeavesStop : Prop :=
  ∀ s t : State, s.status ≠ .run → step s = .next t → (∀ image rest, s.schedule ≠ .reset image :: rest) →
    KeepsAllBut [.redrawReq, .beepReq, .inputs] s t

/-- The acknowledge inputs each clear their flag and change nothing else, in a stopped engine too (R40, decision D34). -/
def Obligations.AcknowledgesClearOneFlag : Prop :=
  ∀ (s : State) (rest : List HostMove),
    (s.schedule = .redrawAck :: rest → step s = .next { s with redrawReq := false, schedule := rest }) ∧
    (s.schedule = .beepAck :: rest → step s = .next { s with beepReq := false, schedule := rest })

/-- The timers (R222; decisions D20, D30): in a completed tick each counts down once, from the value the tick's own
instruction left, and a beep is requested exactly where `ST` goes from 1 to 0; in any other tick they stand. -/
def Obligations.TimersCountInCompletedTicks : Prop :=
  ∀ (s t : State) (i : Instr), Runs s i → step s = .next t →
    (t.outcome = some .completed →
      t.dt.toNat = (delayWritten i s).toNat - 1 ∧ t.st.toNat = (soundWritten i s).toNat - 1 ∧
      (t.beepReq = true ↔ s.beepReq = true ∨ (soundWritten i s).toNat = 1)) ∧
    (t.outcome ≠ some .completed → t.dt = s.dt ∧ t.st = s.st ∧ t.beepReq = s.beepReq)

/-- The program end (R232, decision D5): `RET` on an empty stack ends the program; the step sets `status` and changes
nothing else, the timers included. -/
def Obligations.ReturnOnEmptyStackEnds : Prop :=
  ∀ s : State, s.sp.val = 0 →
    exec .ret s = .next { s with status := .ended, outcome := some .ended } ∧
    (Runs s .ret → step s = .next { s with
      status := .ended
      outcome := some .ended
      schedule := s.schedule.tail
      ticks := s.ticks + 1 })

/-! ### Reset (spec/70_reset_and_hazards.md) -/

/-- A reset with an image that fits gives the start state whatever the state was: the image verbatim at 0x200, the font at 0,
every other byte 0, every register at its value (R261, R263, R43; the stack entries and the request flags by decisions D21,
D22). -/
def Obligations.ResetLoadsImage : Prop :=
  ∀ (s : State) (image : List Byte) (rest : List HostMove), s.schedule = .reset image :: rest → image.length ≤ 3584 →
    ∃ t, step s = .next t ∧
      (∀ k b, image[k]? = some b → memGet t.mem (0x200 + k) = b) ∧
      (∀ a, a < 80 → font[a]? = some (memGet t.mem a)) ∧
      (∀ a, 0x50 ≤ a → a < 0x200 → memGet t.mem a = 0) ∧
      (∀ a, 0x200 + image.length ≤ a → a < 4096 → memGet t.mem a = 0) ∧
      (∀ r, t.reg r = 0) ∧ t.i = 0 ∧ t.pc = 0x200#16 ∧ t.sp.val = 0 ∧ (∀ k : Fin 16, t.stack[k.val] = 0) ∧
      t.dt = 0 ∧ t.st = 0 ∧ (∀ x y, t.fb.cell x y = false) ∧ t.redrawReq = false ∧ t.beepReq = false ∧
      t.status = .run ∧ t.cause = .none

/-- `LoadOverflow` (R264, decision D31): a reset with a longer image copies nothing, initialises the rest, and stops the
engine with cause 4. -/
def Obligations.OverlongImageCopiesNothing : Prop :=
  ∀ (s : State) (image : List Byte) (rest : List HostMove), s.schedule = .reset image :: rest → 3584 < image.length →
    ∃ t, step s = .next t ∧ t.status = .fault ∧ t.cause = .loadOverflow ∧ Cause.loadOverflow.code = 4#3 ∧
      KeepsAllBut [.status, .cause, .inputs] State.reset t ∧ (∀ a, 0x200 ≤ a → a < 4096 → memGet t.mem a = 0)

/-! ### Control transfer (spec/40_control_transfer.md) -/

/-- `JP NNN` (R122; its family number is decision D9, log entry 16). -/
def Obligations.JumpSetsPc : Prop :=
  ∀ (nnn : Addr12) (s : State), decodeWord (0x1#4 ++ nnn) = .ok (.jp nnn) ∧
    ∃ t, exec (.jp nnn) s = .next t ∧ t.outcome = some .completed ∧ t.pc.toNat = nnn.toNat ∧ KeepsAllBut [.pc] s t

/-- `CALL NNN` with a free entry (R123; that its own address is stacked is decision D10). -/
def Obligations.CallStacksOwnAddress : Prop :=
  ∀ (nnn : Addr12) (s : State), s.sp.val < 16 →
    ∃ t, exec (.call nnn) s = .next t ∧ t.outcome = some .completed ∧ t.pc.toNat = nnn.toNat ∧
      t.sp.val = s.sp.val + 1 ∧
      (∀ k : Fin 16, t.stack[k.val] = if k.val = s.sp.val then s.pc else s.stack[k.val]) ∧
      KeepsAllBut [.pc, .sp, .stack] s t

/-- `CALL NNN` with a full stack (R226): `CallStackOverflow`, cause 3; nothing else changes (decisions D2, D4). -/
def Obligations.CallOnFullStackFaults : Prop :=
  ∀ (nnn : Addr12) (s : State), s.sp.val = 16 →
    exec (.call nnn) s = .next { s with
      status := .fault
      cause := .callStackOverflow
      outcome := some (.fault (.callStackOverflow s.pc)) } ∧ Cause.callStackOverflow.code = 3#3

/-- `RET` with entries in use (R121; the `+ 2` is decision D10): the newest entry is popped and execution resumes 2 past it;
the entry stays as it was. -/
def Obligations.ReturnResumesPastNewestEntry : Prop :=
  ∀ (s : State) (k : Fin 16), s.sp.val = k.val + 1 →
    ∃ t, exec .ret s = .next t ∧ t.outcome = some .completed ∧ t.sp.val = k.val ∧
      t.pc.toNat = ((s.stack[k.val]).toNat + 2) % 65536 ∧ KeepsAllBut [.pc, .sp] s t

/-- A subroutine that returns with the stack as it found it resumes after the call (R121, R123, decision D10): from any state
whose stack is that of the state the call left, `RET` gives the address after the call and the depth before it. -/
def Obligations.ReturnResumesAfterCall : Prop :=
  ∀ (nnn : Addr12) (s t u : State), s.sp.val < 16 → exec (.call nnn) s = .next t →
    u.sp = t.sp → (∀ k : Fin 16, k.val < t.sp.val → u.stack[k.val] = t.stack[k.val]) →
    ∃ r, exec .ret u = .next r ∧ r.outcome = some .completed ∧ r.pc = s.pc + 2 ∧ r.sp = s.sp

/-- `SE Vx,NN` (R124): of two unsigned bytes; nothing but `PC` changes. -/
def Obligations.SkipIfEqualImmediate : Prop :=
  ∀ (x : Reg) (nn : Byte) (s : State), decodeWord (0x3#4 ++ x ++ nn) = .ok (.seImm x nn) ∧
    ∃ t, exec (.seImm x nn) s = .next t ∧ t.outcome = some .completed ∧
      (s.reg x = nn → t.pc = s.pc + 4) ∧ (s.reg x ≠ nn → t.pc = s.pc + 2) ∧ KeepsAllBut [.pc] s t

/-- `SNE Vx,NN`, `SE Vx,Vy` and `SNE Vx,Vy` (R125 to R127; the family numbers are general knowledge by decision D9, and the
ignored nibble is decision D7, log entries 11, 16: this statement is about the effects). -/
def Obligations.OtherSkips : Prop :=
  ∀ (x y : Reg) (nn : Byte) (s : State),
    (∃ t, exec (.sneImm x nn) s = .next t ∧ t.outcome = some .completed ∧
      (s.reg x ≠ nn → t.pc = s.pc + 4) ∧ (s.reg x = nn → t.pc = s.pc + 2) ∧ KeepsAllBut [.pc] s t) ∧
    (∃ t, exec (.seReg x y) s = .next t ∧ t.outcome = some .completed ∧
      (s.reg x = s.reg y → t.pc = s.pc + 4) ∧ (s.reg x ≠ s.reg y → t.pc = s.pc + 2) ∧ KeepsAllBut [.pc] s t) ∧
    (∃ t, exec (.sneReg x y) s = .next t ∧ t.outcome = some .completed ∧
      (s.reg x ≠ s.reg y → t.pc = s.pc + 4) ∧ (s.reg x = s.reg y → t.pc = s.pc + 2) ∧ KeepsAllBut [.pc] s t)

/-- `JP V0,NNN` (R128; its family number is decision D9, log entry 16): the sum of 16 bits, which no operands make wrap. -/
def Obligations.JumpWithOffsetAddsV0 : Prop :=
  ∀ (nnn : Addr12) (s : State), decodeWord (0xB#4 ++ nnn) = .ok (.jpV0 nnn) ∧
    ∃ t, exec (.jpV0 nnn) s = .next t ∧ t.outcome = some .completed ∧
      t.pc.toNat = (s.reg 0).toNat + nnn.toNat ∧ KeepsAllBut [.pc] s t

/-! ### Registers and arithmetic (spec/41_register_alu.md) -/

/-- `LD Vx,NN` (R141). -/
def Obligations.LoadImmediate : Prop :=
  ∀ (x : Reg) (nn : Byte) (s : State), decodeWord (0x6#4 ++ x ++ nn) = .ok (.ldImm x nn) ∧
    ∃ t, exec (.ldImm x nn) s = .next t ∧ t.outcome = some .completed ∧ t.reg x = nn ∧
      (∀ r, r ≠ x → t.reg r = s.reg r) ∧ t.pc = s.pc + 2 ∧ KeepsAllBut [.v, .pc] s t

/-- `ADD Vx,NN` (R142; its family number is decision D9, log entry 16): modulo 256; no flag, so that `VF` changes only as a
destination. -/
def Obligations.AddImmediateWraps : Prop :=
  ∀ (x : Reg) (nn : Byte) (s : State), decodeWord (0x7#4 ++ x ++ nn) = .ok (.addImm x nn) ∧
    ∃ t, exec (.addImm x nn) s = .next t ∧ t.outcome = some .completed ∧
      (t.reg x).toNat = ((s.reg x).toNat + nn.toNat) % 256 ∧
      (∀ r, r ≠ x → t.reg r = s.reg r) ∧ t.pc = s.pc + 2 ∧ KeepsAllBut [.v, .pc] s t

/-- `LD Vx,Vy`, `OR`, `AND`, `XOR` (R143 to R146): the result bit by bit; no other register changes, `VF` included
(decision D13). -/
def Obligations.CopyAndLogicWriteOnlyX : Prop :=
  ∀ (x y : Reg) (s : State) (i : Instr) (f : Bool → Bool → Bool),
    (i = .ldReg x y ∧ (∀ a b, f a b = b)) ∨ (i = .orReg x y ∧ (∀ a b, f a b = (a || b))) ∨
      (i = .andReg x y ∧ (∀ a b, f a b = (a && b))) ∨ (i = .xorReg x y ∧ (∀ a b, f a b = (a ^^ b))) →
    ∃ t, exec i s = .next t ∧ t.outcome = some .completed ∧
      (∀ k, k < 8 → (t.reg x).getLsbD k = f ((s.reg x).getLsbD k) ((s.reg y).getLsbD k)) ∧
      (∀ r, r ≠ x → t.reg r = s.reg r) ∧ t.pc = s.pc + 2 ∧ KeepsAllBut [.v, .pc] s t

/-- `ADD Vx,Vy` (R147): the sum modulo 256 in `V[x]` and the carry in `VF`; with `x = 15` the sum stays in `VF` and the carry
is lost (R140 (c), decision D12: the spec's choice, log entry 8). -/
def Obligations.AddSetsSumAndCarry : Prop :=
  ∀ (x y : Reg) (s : State),
    ∃ t, exec (.addReg x y) s = .next t ∧ t.outcome = some .completed ∧
      (t.reg x).toNat = ((s.reg x).toNat + (s.reg y).toNat) % 256 ∧
      (x ≠ flagReg → t.reg flagReg = if 255 < (s.reg x).toNat + (s.reg y).toNat then 1 else 0) ∧
      (∀ r, r ≠ x → r ≠ flagReg → t.reg r = s.reg r) ∧ t.pc = s.pc + 2 ∧ KeepsAllBut [.v, .pc] s t

/-- `SUB Vx,Vy` and `SUBN Vx,Vy` (R148, R150): the difference modulo 256 and the no-borrow flag; with `x = 15` the difference
stays in `VF` (R140 (c), decision D12: the spec's choice, log entry 8). -/
def Obligations.SubtractsSetDifferenceAndNoBorrow : Prop :=
  ∀ (x y : Reg) (s : State),
    (∃ t, exec (.subReg x y) s = .next t ∧ t.outcome = some .completed ∧
      (t.reg x).toNat = ((s.reg x).toNat + 256 - (s.reg y).toNat) % 256 ∧
      (x ≠ flagReg → t.reg flagReg = if (s.reg y).toNat ≤ (s.reg x).toNat then 1 else 0) ∧
      (∀ r, r ≠ x → r ≠ flagReg → t.reg r = s.reg r) ∧ t.pc = s.pc + 2 ∧ KeepsAllBut [.v, .pc] s t) ∧
    (∃ t, exec (.subn x y) s = .next t ∧ t.outcome = some .completed ∧
      (t.reg x).toNat = ((s.reg y).toNat + 256 - (s.reg x).toNat) % 256 ∧
      (x ≠ flagReg → t.reg flagReg = if (s.reg x).toNat ≤ (s.reg y).toNat then 1 else 0) ∧
      (∀ r, r ≠ x → r ≠ flagReg → t.reg r = s.reg r) ∧ t.pc = s.pc + 2 ∧ KeepsAllBut [.v, .pc] s t)

/-- `SHR Vx,Vy` and `SHL Vx,Vy` (R149, R151): `V[y]` shifted by one into both registers, and the bit shifted out in `VF`,
unless `x` or `y` is 15, where the shifted value stays in `VF` (decisions D11, D12: the spec's choices, log entries 8, 9). -/
def Obligations.ShiftsWriteBothRegisters : Prop :=
  ∀ (x y : Reg) (s : State),
    (∃ t, exec (.shr x y) s = .next t ∧ t.outcome = some .completed ∧
      (t.reg x).toNat = (s.reg y).toNat / 2 ∧ (t.reg y).toNat = (s.reg y).toNat / 2 ∧
      (x ≠ flagReg → y ≠ flagReg → (t.reg flagReg).toNat = (s.reg y).toNat % 2) ∧
      (∀ r, r ≠ x → r ≠ y → r ≠ flagReg → t.reg r = s.reg r) ∧ t.pc = s.pc + 2 ∧ KeepsAllBut [.v, .pc] s t) ∧
    (∃ t, exec (.shl x y) s = .next t ∧ t.outcome = some .completed ∧
      (t.reg x).toNat = (s.reg y).toNat * 2 % 256 ∧ (t.reg y).toNat = (s.reg y).toNat * 2 % 256 ∧
      (x ≠ flagReg → y ≠ flagReg → (t.reg flagReg).toNat = (s.reg y).toNat / 128) ∧
      (∀ r, r ≠ x → r ≠ y → r ≠ flagReg → t.reg r = s.reg r) ∧ t.pc = s.pc + 2 ∧ KeepsAllBut [.v, .pc] s t)

/-- `RND Vx,NN` (R152): the random input of the tick, whatever it is, masked bit by bit (decision D24: a free input). -/
def Obligations.RandomIsMaskedInput : Prop :=
  ∀ (x : Reg) (nn : Byte) (s : State),
    (∀ k r rest, s.schedule = .tick k r :: rest → s.rnd = r) ∧
    ∃ t, exec (.rnd x nn) s = .next t ∧ t.outcome = some .completed ∧
      (∀ k, k < 8 → (t.reg x).getLsbD k = (s.rnd.getLsbD k && nn.getLsbD k)) ∧
      (∀ r, r ≠ x → t.reg r = s.reg r) ∧ t.pc = s.pc + 2 ∧ KeepsAllBut [.v, .pc] s t

/-! ### Display (spec/42_display.md) -/

/-- `CLS` (R170). -/
def Obligations.ClearScreen : Prop :=
  ∀ s : State, decodeWord 0x00E0#16 = .ok .cls ∧
    ∃ t, exec .cls s = .next t ∧ t.outcome = some .completed ∧ (∀ x y, t.fb.cell x y = false) ∧
      t.redrawReq = true ∧ t.pc = s.pc + 2 ∧ KeepsAllBut [.fb, .redrawReq, .pc] s t

/-- `DRW Vx,Vy,N` with its rows in memory (R171 to R174): each cell is toggled exactly where the sprite has a 1 bit for it,
and `VF` is 1 exactly when such a cell held 1 before. The position is read before `VF` is written, `x` or `y` 15 included.
Edges wrap (R173, decision D16: the spec's choice, log entry 7) and bit 7 is the left pixel (R172, decision D17). -/
def Obligations.DrawTogglesExactlySpriteBits : Prop :=
  ∀ (x y : Reg) (n : Nibble) (s : State), n.toNat = 0 ∨ s.i.toNat + n.toNat ≤ 4096 →
    ∃ t, exec (.drw x y n) s = .next t ∧ t.outcome = some .completed ∧
      (∀ cx cy, t.fb.cell cx cy =
        (s.fb.cell cx cy ^^ spriteBit s.mem s.i (s.reg x).toNat (s.reg y).toNat n.toNat cx cy)) ∧
      ((∃ cx cy, spriteBit s.mem s.i (s.reg x).toNat (s.reg y).toNat n.toNat cx cy = true ∧ s.fb.cell cx cy = true) →
        t.reg flagReg = 1) ∧
      ((∀ cx cy, spriteBit s.mem s.i (s.reg x).toNat (s.reg y).toNat n.toNat cx cy = true → s.fb.cell cx cy = false) →
        t.reg flagReg = 0) ∧
      t.redrawReq = true ∧ (∀ r, r ≠ flagReg → t.reg r = s.reg r) ∧ t.pc = s.pc + 2 ∧
      KeepsAllBut [.fb, .redrawReq, .v, .pc] s t

/-- Double draw (R175): the identical sprite drawn twice in succession at the identical location restores the framebuffer.
The second draw finds a collision exactly when the first set some cell; this clause is from R171, and the last sentence of
R175 says otherwise of a sprite whose 1 bits all covered cells of 1 (log entry 15). -/
def Obligations.DoubleDrawRestores : Prop :=
  ∀ (x y : Reg) (n : Nibble) (s t u : State), n.toNat = 0 ∨ s.i.toNat + n.toNat ≤ 4096 →
    exec (.drw x y n) s = .next t → t.reg x = s.reg x → t.reg y = s.reg y → exec (.drw x y n) t = .next u →
    (∀ cx cy, u.fb.cell cx cy = s.fb.cell cx cy) ∧
    (u.reg flagReg = 1 ↔ ∃ cx cy, s.fb.cell cx cy = false ∧ t.fb.cell cx cy = true)

/-- The two values of `DRAW_EDGE` agree for a draw at `V[X] <= 56` with `V[Y] + N <= 32` (R173). -/
def Obligations.DrawEdgesAgreeInWindow : Prop :=
  ∀ (x0 y0 : Nat) (rows : List Byte) (fb : Framebuffer), x0 ≤ 56 → y0 + rows.length ≤ 32 →
    drawSprite .clip x0 y0 rows fb = drawSprite .wrap x0 y0 rows fb

/-! ### Keypad and timers (spec/43_keypad_timers.md) -/

/-- `SKP Vx` and `SKNP Vx` (R180 to R182): all 8 bits of `V[x]` are compared with the key's code (decision D18), and no key
is not pressed. -/
def Obligations.KeySkips : Prop :=
  ∀ (x : Reg) (s : State),
    (∀ k r rest, s.schedule = .tick k r :: rest → s.key = k) ∧
    (∃ t, exec (.skp x) s = .next t ∧ t.outcome = some .completed ∧
      ((∃ k, s.key = some k ∧ k.toNat = (s.reg x).toNat) → t.pc = s.pc + 4) ∧
      ((∀ k, s.key = some k → k.toNat ≠ (s.reg x).toNat) → t.pc = s.pc + 2) ∧ KeepsAllBut [.pc] s t) ∧
    (∃ t, exec (.sknp x) s = .next t ∧ t.outcome = some .completed ∧
      ((∃ k, s.key = some k ∧ k.toNat = (s.reg x).toNat) → t.pc = s.pc + 2) ∧
      ((∀ k, s.key = some k → k.toNat ≠ (s.reg x).toNat) → t.pc = s.pc + 4) ∧ KeepsAllBut [.pc] s t)

/-- `LD Vx,K` on a tick with a key (R184, decision D19): the key's code goes to `V[x]`. -/
def Obligations.KeyWaitTakesKey : Prop :=
  ∀ (x : Reg) (s : State) (k : Nibble), s.key = some k →
    ∃ t, exec (.ldVxK x) s = .next t ∧ t.outcome = some .completed ∧ (t.reg x).toNat = k.toNat ∧
      (∀ r, r ≠ x → t.reg r = s.reg r) ∧ t.pc = s.pc + 2 ∧ KeepsAllBut [.v, .pc] s t

/-- `LD Vx,K` on a tick without a key (R184, decision D19): a null cycle; nothing changes, the timers included, and the next
tick runs the same instruction again. -/
def Obligations.KeyWaitIsNullCycle : Prop :=
  ∀ (x : Reg) (s : State), s.key = none →
    exec (.ldVxK x) s = .next { s with outcome := some .waiting } ∧
    (Runs s (.ldVxK x) → ∃ t, step s = .next t ∧
      t = { s with outcome := some .waiting, schedule := s.schedule.tail, ticks := s.ticks + 1 } ∧
      (nextIsTick s.schedule.tail = true → Runs t (.ldVxK x)))

/-- `LD Vx,DT` (R183; its number is decision D9, the order decision D30): the value before this cycle's timer step, which the
step then counts down. -/
def Obligations.ReadDelayTimer : Prop :=
  ∀ (x : Reg) (s : State), decodeWord (0xF#4 ++ x ++ 0x07#8) = .ok (.ldVxDt x) ∧
    (∃ t, exec (.ldVxDt x) s = .next t ∧ t.outcome = some .completed ∧ t.reg x = s.dt ∧
      (∀ r, r ≠ x → t.reg r = s.reg r) ∧ t.pc = s.pc + 2 ∧ KeepsAllBut [.v, .pc] s t) ∧
    (Runs s (.ldVxDt x) → ∃ t, step s = .next t ∧ t.reg x = s.dt ∧ t.dt.toNat = s.dt.toNat - 1)

/-- `LD DT,Vx` and `LD ST,Vx` (R185, R186): the timer takes the register; neither touches the beep request. -/
def Obligations.SetTimers : Prop :=
  ∀ (x : Reg) (s : State),
    (∃ t, exec (.ldDtVx x) s = .next t ∧ t.outcome = some .completed ∧ t.dt = s.reg x ∧ t.pc = s.pc + 2 ∧
      KeepsAllBut [.dt, .pc] s t) ∧
    (∃ t, exec (.ldStVx x) s = .next t ∧ t.outcome = some .completed ∧ t.st = s.reg x ∧ t.pc = s.pc + 2 ∧
      KeepsAllBut [.st, .pc] s t)

/-! ### Index register and memory (spec/44_index_memory.md) -/

/-- `LD I,NNN` (R200). -/
def Obligations.LoadIndex : Prop :=
  ∀ (nnn : Addr12) (s : State), decodeWord (0xA#4 ++ nnn) = .ok (.ldI nnn) ∧
    ∃ t, exec (.ldI nnn) s = .next t ∧ t.outcome = some .completed ∧ t.i.toNat = nnn.toNat ∧ t.pc = s.pc + 2 ∧
      KeepsAllBut [.i, .pc] s t

/-- `ADD I,Vx` and `LD F,Vx` (R201, R202): 16-bit sums, no flag, no mask (decisions D13 to D15, D28). -/
def Obligations.IndexArithmetic : Prop :=
  ∀ (x : Reg) (s : State),
    (∃ t, exec (.addI x) s = .next t ∧ t.outcome = some .completed ∧
      t.i.toNat = (s.i.toNat + (s.reg x).toNat) % 65536 ∧ t.pc = s.pc + 2 ∧ KeepsAllBut [.i, .pc] s t) ∧
    (∃ t, exec (.ldF x) s = .next t ∧ t.outcome = some .completed ∧
      t.i.toNat = (s.reg x).toNat * 5 ∧ t.pc = s.pc + 2 ∧ KeepsAllBut [.i, .pc] s t)

/-- `LD [I],Vx` in range (R203; that `I` ends at `I + X + 1` is decision D32): `V[0]` to `V[x]` at `I` to `I + x`, every other
byte as before. -/
def Obligations.StoreRegistersInOrder : Prop :=
  ∀ (x : Reg) (s : State), s.mem.wf → s.i.toNat + x.toNat ≤ 0xFFF →
    ∃ t, exec (.storeRegs x) s = .next t ∧ t.outcome = some .completed ∧
      (∀ r : Reg, r.toNat ≤ x.toNat →
        dataAddr dataOob s.i r.toNat = s.i.toNat + r.toNat ∧ memGet t.mem (dataAddr dataOob s.i r.toNat) = s.reg r) ∧
      (∀ a, (∀ r : Reg, r.toNat ≤ x.toNat → a ≠ dataAddr dataOob s.i r.toNat) → memGet t.mem a = memGet s.mem a) ∧
      t.i.toNat = s.i.toNat + x.toNat + 1 ∧ t.pc = s.pc + 2 ∧ KeepsAllBut [.mem, .i, .pc] s t

/-- `LD Vx,[I]` in range (R204, decision D32): `V[0]` to `V[x]` from `I` to `I + x`, every other register as before. -/
def Obligations.LoadRegistersInOrder : Prop :=
  ∀ (x : Reg) (s : State), s.i.toNat + x.toNat ≤ 0xFFF →
    ∃ t, exec (.loadRegs x) s = .next t ∧ t.outcome = some .completed ∧
      (∀ r : Reg, r.toNat ≤ x.toNat → t.reg r = memGet s.mem (s.i.toNat + r.toNat)) ∧
      (∀ r : Reg, x.toNat < r.toNat → t.reg r = s.reg r) ∧
      t.i.toNat = s.i.toNat + x.toNat + 1 ∧ t.pc = s.pc + 2 ∧ KeepsAllBut [.v, .i, .pc] s t

/-- `BCD Vx` in range (R205, decision D29): three decimal digits that make up the value, one a byte, at `I`, `I+1`, `I+2`;
every other byte as before, `I` unchanged. -/
def Obligations.BcdStoresThreeDigits : Prop :=
  ∀ (x : Reg) (s : State), s.mem.wf → s.i.toNat + 2 ≤ 0xFFF →
    ∃ t, exec (.bcd x) s = .next t ∧ t.outcome = some .completed ∧
      (memGet t.mem (dataAddr dataOob s.i 0)).toNat * 100 + (memGet t.mem (dataAddr dataOob s.i 1)).toNat * 10 +
        (memGet t.mem (dataAddr dataOob s.i 2)).toNat = (s.reg x).toNat ∧
      (memGet t.mem (dataAddr dataOob s.i 1)).toNat ≤ 9 ∧ (memGet t.mem (dataAddr dataOob s.i 2)).toNat ≤ 9 ∧
      (∀ k, k < 3 → dataAddr dataOob s.i k = s.i.toNat + k) ∧
      (∀ a, (∀ k, k < 3 → a ≠ dataAddr dataOob s.i k) → memGet t.mem a = memGet s.mem a) ∧
      t.pc = s.pc + 2 ∧ KeepsAllBut [.mem, .pc] s t

/-- `DataAddressRange` (R68, R227; decision D6: the spec's choice, log entry 6): `DRW`, `BCD`, `LD [I],Vx`, `LD Vx,[I]` whose
highest address is above 0xFFF take the fault, cause 5, with the lowest such address, and change nothing else. -/
def Obligations.DataPastEndFaults : Prop :=
  ∀ (i : Instr) (s : State), 0 < accessCount i → 0xFFF < s.i.toNat + accessCount i - 1 →
    exec i s = .next { s with
      status := .fault
      cause := .dataAddressRange
      outcome := some (.fault (.dataAddressRange (max s.i.toNat 0x1000))) } ∧ Cause.dataAddressRange.code = 5#3

/-- A store is seen by the very next fetch (20_memory.md R76, decision D37): after a step of `LD [I],Vx`, a fetch at an address
among those stored reads the registers' bytes as a word. -/
def Obligations.StoreIsSeenByNextFetch : Prop :=
  ∀ (x : Reg) (s t : State), s.mem.wf → Runs s (.storeRegs x) → s.i.toNat + x.toNat ≤ 0xFFF → step s = .next t →
    ∀ (r q : Reg) (pc : Word), q.toNat = r.toNat + 1 → q.toNat ≤ x.toNat → pc.toNat = s.i.toNat + r.toNat →
      fetchWord t.mem pc = .ok (bytesToWord (s.reg r) (s.reg q))

/-! ### Rules about the whole machine (spec/10_state.md) -/

/-- Only the six flag-writing instructions change `VF` without naming it as a destination, and no instruction changes any
other register it does not name (R22, R23, decision D13). -/
def Obligations.RegistersWrittenOnlyAsNamed : Prop :=
  ∀ (i : Instr) (s t : State) (r : Reg), exec i s = .next t → namesDest i r = false →
    (writesFlag i = true → r ≠ flagReg) → t.reg r = s.reg r

/-- Each piece of state other than `V` and `PC` (which RegistersWrittenOnlyAsNamed and PcMovesAsCompleted speak of) is
written by a dispatch only of its own instructions: memory by `BCD` and `LD [I],Vx`, `I` by five, the stack by `CALL` and
`RET`, `DT` by `LD DT,Vx`, `ST` by `LD ST,Vx`, the framebuffer by `CLS` and `DRW`, which also request a redraw; no instruction
clears a request or touches the beep request; `status` and `cause` move only in a fault, and `status` in a program end
(R28 to R36, 20_memory.md R60; that a fault and the end are the only ways is decisions D2 to D5). -/
def Obligations.PiecesWrittenOnlyByTheirInstructions : Prop :=
  ∀ (i : Instr) (s t : State), exec i s = .next t →
    (writesMemory i = false → Unchanged s t .mem) ∧ (writesIndex i = false → Unchanged s t .i) ∧
    (usesStack i = false → Unchanged s t .stack ∧ Unchanged s t .sp) ∧
    ((∀ x, i ≠ .ldDtVx x) → Unchanged s t .dt) ∧ ((∀ x, i ≠ .ldStVx x) → Unchanged s t .st) ∧
    (t.outcome ≠ some .ended → (∀ e, t.outcome ≠ some (.fault e)) → Unchanged s t .status) ∧
    ((∀ e, t.outcome ≠ some (.fault e)) → Unchanged s t .cause) ∧
    (writesDisplay i = false → Unchanged s t .fb ∧ Unchanged s t .redrawReq) ∧
    (writesDisplay i = true → t.outcome = some .completed → t.redrawReq = true) ∧
    Unchanged s t .beepReq ∧ Unchanged s t .inputs

/-- In a completed dispatch of an instruction that is no jump, call or return, `PC` moves by 2, or by 4 where the instruction
may skip; in a waiting, ending or faulting dispatch it does not move (R25, 90_conflicts.md C12; decisions D4, D5). -/
def Obligations.PcMovesAsCompleted : Prop :=
  ∀ (i : Instr) (s t : State), exec i s = .next t →
    (t.outcome = some .completed → jumps i = false →
      t.pc = s.pc + 2 ∨ (skips i = true ∧ t.pc = s.pc + 4)) ∧
    (t.outcome ≠ some .completed → t.pc = s.pc)

/-- The key is read by `SKP`, `SKNP` and `LD Vx,K` only, and the random byte by `RND` only (R37, R38): under other host inputs
an instruction does the same, unless it reads one of them and that one differs. -/
def Obligations.InputsReadOnlyByTheirInstructions : Prop :=
  ∀ (i : Instr) (s t : State) (moves : List HostMove) (n : Nat), exec i s = .next t →
    (readsKey i = true → State.key { s with schedule := moves, ticks := n } = s.key) →
    (readsRnd i = true → State.rnd { s with schedule := moves, ticks := n } = s.rnd) →
    exec i { s with schedule := moves, ticks := n } = .next { t with schedule := moves, ticks := n }

/-- No instruction reads `ST`, `redraw_req`, `beep_req`, `status` or `cause` (R32, R34 to R36): states that differ only there
go on alike in everything a program can see. -/
def Obligations.OutputsAreNotRead : Prop :=
  ∀ (i : Instr) (s t : State) (st : Byte) (rd bp : Bool) (su : Status) (ca : Cause) (o : Option TickOutcome),
    exec i s = .next t →
    ∃ t', exec i { s with st := st, redrawReq := rd, beepReq := bp, status := su, cause := ca, outcome := o } = .next t' ∧
      t'.mem = t.mem ∧ t'.v = t.v ∧ t'.i = t.i ∧ t'.pc = t.pc ∧ t'.stack = t.stack ∧ t'.sp = t.sp ∧ t'.dt = t.dt ∧
      t'.fb = t.fb ∧ t'.outcome = t.outcome

/-! ### Parameters (spec/00_scope.md R6) -/

/-- For every `X` other than 15 (for a shift, `Y` too, by decision D12; R140 says it of `X` alone, log entry 8) the two values
of `FLAG_ORDER` give the same registers (41_register_alu.md R140, R154). -/
def Obligations.FlagOrdersAgreeOffVF : Prop :=
  ∀ (v : RegFile) (x y : Reg) (result flag : Byte), x ≠ flagReg →
    writeFlagged .flagLast v x result flag = writeFlagged .flagFirst v x result flag ∧
    (y ≠ flagReg → writeShifted .flagLast v x y result flag = writeShifted .flagFirst v x y result flag)

/-! ### Memory as data, and the invariants -/

/-- Two memories in canonical form that read the same at every address are the same data. -/
def Obligations.CanonicalMemoriesAreEqual : Prop :=
  ∀ m m' : Memory, m.wf → m'.wf → (∀ a, a < 4096 → memGet m a = memGet m' a) → m = m'

/-- The state after reset meets both invariants (10_state.md R43). -/
def Obligations.ResetMeetsInvariants : Prop := Inv State.reset ∧ PcBounded State.reset

/-- Every step, whatever move of the host it is, keeps memory canonical, keeps `cause` at 0 exactly outside a fault (R36), and
leaves an ended program with an empty stack (60_exceptions.md R232). -/
def Obligations.StepKeepsInvariant : Prop := ∀ s t : State, Inv s → step s = .next t → Inv t

/-- Every step keeps `PC` at most 0x10FE and the stacked addresses in use at most 0xFFE, so that no wrap of `PC` is reachable
(10_state.md R27). -/
def Obligations.StepKeepsPcBounded : Prop := ∀ s t : State, PcBounded s → step s = .next t → PcBounded t
end

