-- ==== Sys2Proof/Laws/Memory.lean ====
section
/-! SUPPORT. Main memory: reading after a store, and that every operation keeps the canonical form. -/

namespace Sys2Proof.Machine

/-- Every listed address of `m` lies at `lo` or above. -/
abbrev Memory.above (lo : Nat) (m : Memory) : Prop := ∀ c ∈ m, lo ≤ c.1

/-- An address below every listed one reads as its reset contents. -/
theorem memGet_below {m : Memory} {a : Nat} (h : ∀ c ∈ m, a < c.1) : memGet m a = resetByte a := by
  induction m with
  | nil => rfl
  | cons c rest ih =>
    have hc : a < c.1 := h c (by simp)
    have ha : a ≠ c.1 := by omega
    simp only [memGet, ha, if_false]
    exact ih fun d hd => h d (by simp [hd])

/-- Reading after putting a cell in a memory with rising addresses. -/
theorem memGet_putCell {m : Memory} (hm : m.Pairwise (fun c d => c.1 < d.1)) (a : Nat) (b : Byte) (a' : Nat) :
    memGet (putCell a b m) a' = if a' = a then b else memGet m a' := by
  induction m with
  | nil => by_cases hb : b = resetByte a <;> by_cases ha : a' = a <;> simp_all [putCell, memGet]
  | cons c rest ih =>
    obtain ⟨k, d⟩ := c
    obtain ⟨hlt, hrest⟩ := List.pairwise_cons.1 hm
    have below : ∀ x, x < k ∨ x = k → memGet rest x = resetByte x :=
      fun x hx => memGet_below fun c hc => by have := hlt c hc; simp only at this; omega
    by_cases h1 : a < k
    · have hk : a ≠ k := by omega
      by_cases hb : b = resetByte a
      · by_cases ha : a' = a
        · subst ha; simp [putCell, h1, hb, memGet, hk, below a' (.inl h1)]
        · simp [putCell, h1, hb, ha]
      · by_cases ha : a' = a <;> simp [putCell, h1, hb, ha, memGet]
    · by_cases h2 : a = k
      · subst h2
        by_cases hb : b = resetByte a
        · by_cases ha : a' = a
          · subst ha; simp [putCell, hb, below a' (.inr rfl)]
          · simp [putCell, hb, ha, memGet]
        · by_cases ha : a' = a <;> simp [putCell, hb, ha, memGet]
      · by_cases ha : a' = k
        · have hne : k ≠ a := fun h => h2 h.symm
          subst ha; simp [putCell, h1, h2, memGet, hne]
        · simp [putCell, h1, h2, memGet, ha, ih hrest]

/-- A cell put in place lists only that address and those listed before. -/
theorem mem_putCell {m : Memory} {a : Nat} {b : Byte} {c : Host.Cell} (hc : c ∈ putCell a b m) :
    (c = (a, b) ∧ b ≠ resetByte a) ∨ c ∈ m := by
  induction m with
  | nil => by_cases hb : b = resetByte a <;> simp_all [putCell]
  | cons d rest ih =>
    obtain ⟨k, e⟩ := d
    simp only [putCell] at hc
    split at hc
    · split at hc
      · exact .inr hc
      · rcases List.mem_cons.1 hc with h | h
        · exact .inl ⟨h, by assumption⟩
        · exact .inr h
    · split at hc
      · split at hc
        · exact .inr (List.mem_cons_of_mem _ hc)
        · rcases List.mem_cons.1 hc with h | h
          · exact .inl ⟨h, by assumption⟩
          · exact .inr (List.mem_cons_of_mem _ h)
      · rcases List.mem_cons.1 hc with h | h
        · exact .inr (by simp [h])
        · exact (ih h).imp id (List.mem_cons_of_mem _)

/-- Putting a cell keeps the addresses rising. -/
theorem putCell_rising {m : Memory} (hm : m.Pairwise (fun c d => c.1 < d.1)) (a : Nat) (b : Byte) :
    (putCell a b m).Pairwise (fun c d => c.1 < d.1) := by
  induction m with
  | nil => by_cases hb : b = resetByte a <;> simp [putCell, hb]
  | cons c rest ih =>
    obtain ⟨k, d⟩ := c
    obtain ⟨hlt, hrest⟩ := List.pairwise_cons.1 hm
    simp only [putCell]
    split
    · split
      · exact hm
      · refine List.pairwise_cons.2 ⟨fun c hc => ?_, hm⟩
        rcases List.mem_cons.1 hc with rfl | h
        · assumption
        · have := hlt c h; simp only at this ⊢; omega
    · split
      · next h =>
        subst h
        split
        · exact hrest
        · exact List.pairwise_cons.2 ⟨hlt, hrest⟩
      · refine List.pairwise_cons.2 ⟨fun c hc => ?_, ih hrest⟩
        rcases mem_putCell hc with ⟨rfl, _⟩ | h
        · simp only; omega
        · exact hlt c h

/-- Reading after a store (spec/20_memory.md R69): the stored byte at the stored address, every other byte as before. -/
theorem memGet_memSet {m : Memory} (hm : m.wf) (a : Nat) (b : Byte) (a' : Nat) :
    memGet (memSet m a b) a' = if a' = a ∧ a < Config.memSize then b else memGet m a' := by
  unfold memSet
  by_cases ha : a < Config.memSize
  · simp [ha, memGet_putCell hm.1]
  · simp [ha]

/-- A store keeps the canonical form. -/
theorem memSet_wf {m : Memory} (hm : m.wf) (a : Nat) (b : Byte) : (memSet m a b).wf := by
  unfold memSet
  split
  · next ha =>
    refine ⟨putCell_rising hm.1 a b, fun c hc => ?_⟩
    rcases mem_putCell hc with ⟨rfl, hb⟩ | h
    · exact ⟨ha, hb⟩
    · exact hm.2 c h
  · exact hm

/-- Storing a block keeps the canonical form. -/
theorem storeBytes_wf (oob : Config.DataOob) (i : Word) (k : Nat) (bs : List Byte) {m : Memory} (hm : m.wf) :
    (storeBytes oob i k bs m).wf := by
  induction bs generalizing k m with
  | nil => exact hm
  | cons b rest ih => exact ih (k + 1) (memSet_wf hm _ b)

/-- The cells of an image lie at its addresses and differ from the reset contents. -/
theorem mem_imageCells {a : Nat} {image : List Byte} {c : Host.Cell} (hc : c ∈ imageCells a image) :
    a ≤ c.1 ∧ c.1 < a + image.length ∧ c.2 ≠ resetByte c.1 := by
  induction image generalizing a with
  | nil => simp [imageCells] at hc
  | cons b rest ih =>
    simp only [imageCells] at hc
    split at hc
    · obtain ⟨h1, h2, h3⟩ := ih hc
      exact ⟨by omega, by simp only [List.length_cons]; omega, h3⟩
    · rcases List.mem_cons.1 hc with rfl | h
      · exact ⟨le_refl _, by simp, by assumption⟩
      · obtain ⟨h1, h2, h3⟩ := ih h
        exact ⟨by omega, by simp only [List.length_cons]; omega, h3⟩

/-- The cells of an image stand at rising addresses. -/
theorem imageCells_rising (a : Nat) (image : List Byte) :
    (imageCells a image).Pairwise (fun c d => c.1 < d.1) := by
  induction image generalizing a with
  | nil => exact List.Pairwise.nil
  | cons b rest ih =>
    simp only [imageCells]
    split
    · exact ih (a + 1)
    · exact List.pairwise_cons.2 ⟨fun c hc => by have := mem_imageCells hc; simp only; omega, ih (a + 1)⟩

/-- Loading an image that fits gives a memory in canonical form (spec/70_reset_and_hazards.md R263). -/
theorem loadImage_wf {image : List Byte} (h : imageOk image = true) : (loadImage image).wf := by
  refine ⟨imageCells_rising _ _, fun c hc => ?_⟩
  obtain ⟨-, h2, h3⟩ := mem_imageCells hc
  have : image.length ≤ 3584 := of_decide_eq_true h
  exact ⟨by simp only [Config.progBase, Config.memSize] at *; omega, h3⟩

/-- The memory after reset is in canonical form. -/
theorem reset_mem_wf : State.reset.mem.wf := by decide

/-- Reading the cells of an image: its bytes in order, the reset contents elsewhere. -/
theorem memGet_imageCells (a : Nat) (image : List Byte) (a' : Nat) :
    memGet (imageCells a image) a' =
      if a ≤ a' then (image[a' - a]?).getD (resetByte a') else resetByte a' := by
  induction image generalizing a with
  | nil => simp [imageCells, memGet]
  | cons b rest ih =>
    have step : a' ≠ a → memGet (imageCells (a + 1) rest) a' =
        if a ≤ a' then ((b :: rest)[a' - a]?).getD (resetByte a') else resetByte a' := by
      intro hne
      rw [ih]
      by_cases h : a ≤ a'
      · obtain ⟨d, rfl⟩ : ∃ d, a' = a + 1 + d := ⟨a' - a - 1, by omega⟩
        have h1 : a + 1 + d - (a + 1) = d := by omega
        have h2 : a + 1 + d - a = d + 1 := by omega
        simp [h1, h2, h]
      · have : ¬ a + 1 ≤ a' := by omega
        simp [h, this]
    have below : memGet (imageCells (a + 1) rest) a = resetByte a :=
      memGet_below fun c hc => by have := mem_imageCells hc; omega
    simp only [imageCells]
    by_cases ha : a' = a
    · subst ha
      split
      · next hb => simp [below, hb]
      · simp [memGet]
    · split
      · exact step ha
      · simpa [memGet, ha] using step ha

end Sys2Proof.Machine
end

