-- ==== Sys2Proof/Laws/State.lean ====
section
/-! SUPPORT. What each update of the state leaves in each field: one lemma per field per update, so that no later proof
unfolds a record update. -/

namespace Sys2Proof.Machine

variable (s : State)

/-- Normal completion is one write of `PC`. -/
@[simp] theorem next_eq_setPc : s.next = s.setPc (s.pc + 2) := rfl
/-- A skip is one write of `PC`. -/
@[simp] theorem skipIf_eq_setPc (c : Bool) : s.skipIf c = s.setPc (s.pc + (if c then 4 else 2)) := rfl

/-! ### `State.setReg` -/

@[simp] theorem setReg_mem (x : Reg) (b : Byte) : (s.setReg x b).mem = s.mem := rfl
@[simp] theorem setReg_v (x : Reg) (b : Byte) : (s.setReg x b).v = s.v.write x b := rfl
@[simp] theorem setReg_i (x : Reg) (b : Byte) : (s.setReg x b).i = s.i := rfl
@[simp] theorem setReg_pc (x : Reg) (b : Byte) : (s.setReg x b).pc = s.pc := rfl
@[simp] theorem setReg_stack (x : Reg) (b : Byte) : (s.setReg x b).stack = s.stack := rfl
@[simp] theorem setReg_sp (x : Reg) (b : Byte) : (s.setReg x b).sp = s.sp := rfl
@[simp] theorem setReg_dt (x : Reg) (b : Byte) : (s.setReg x b).dt = s.dt := rfl
@[simp] theorem setReg_st (x : Reg) (b : Byte) : (s.setReg x b).st = s.st := rfl
@[simp] theorem setReg_fb (x : Reg) (b : Byte) : (s.setReg x b).fb = s.fb := rfl
@[simp] theorem setReg_redrawReq (x : Reg) (b : Byte) : (s.setReg x b).redrawReq = s.redrawReq := rfl
@[simp] theorem setReg_beepReq (x : Reg) (b : Byte) : (s.setReg x b).beepReq = s.beepReq := rfl
@[simp] theorem setReg_status (x : Reg) (b : Byte) : (s.setReg x b).status = s.status := rfl
@[simp] theorem setReg_cause (x : Reg) (b : Byte) : (s.setReg x b).cause = s.cause := rfl
@[simp] theorem setReg_outcome (x : Reg) (b : Byte) : (s.setReg x b).outcome = s.outcome := rfl
@[simp] theorem setReg_schedule (x : Reg) (b : Byte) : (s.setReg x b).schedule = s.schedule := rfl
@[simp] theorem setReg_ticks (x : Reg) (b : Byte) : (s.setReg x b).ticks = s.ticks := rfl

/-! ### `State.setV` -/

@[simp] theorem setV_mem (v : RegFile) : (s.setV v).mem = s.mem := rfl
@[simp] theorem setV_v (v : RegFile) : (s.setV v).v = v := rfl
@[simp] theorem setV_i (v : RegFile) : (s.setV v).i = s.i := rfl
@[simp] theorem setV_pc (v : RegFile) : (s.setV v).pc = s.pc := rfl
@[simp] theorem setV_stack (v : RegFile) : (s.setV v).stack = s.stack := rfl
@[simp] theorem setV_sp (v : RegFile) : (s.setV v).sp = s.sp := rfl
@[simp] theorem setV_dt (v : RegFile) : (s.setV v).dt = s.dt := rfl
@[simp] theorem setV_st (v : RegFile) : (s.setV v).st = s.st := rfl
@[simp] theorem setV_fb (v : RegFile) : (s.setV v).fb = s.fb := rfl
@[simp] theorem setV_redrawReq (v : RegFile) : (s.setV v).redrawReq = s.redrawReq := rfl
@[simp] theorem setV_beepReq (v : RegFile) : (s.setV v).beepReq = s.beepReq := rfl
@[simp] theorem setV_status (v : RegFile) : (s.setV v).status = s.status := rfl
@[simp] theorem setV_cause (v : RegFile) : (s.setV v).cause = s.cause := rfl
@[simp] theorem setV_outcome (v : RegFile) : (s.setV v).outcome = s.outcome := rfl
@[simp] theorem setV_schedule (v : RegFile) : (s.setV v).schedule = s.schedule := rfl
@[simp] theorem setV_ticks (v : RegFile) : (s.setV v).ticks = s.ticks := rfl

/-! ### `State.setI` -/

@[simp] theorem setI_mem (w : Word) : (s.setI w).mem = s.mem := rfl
@[simp] theorem setI_v (w : Word) : (s.setI w).v = s.v := rfl
@[simp] theorem setI_i (w : Word) : (s.setI w).i = w := rfl
@[simp] theorem setI_pc (w : Word) : (s.setI w).pc = s.pc := rfl
@[simp] theorem setI_stack (w : Word) : (s.setI w).stack = s.stack := rfl
@[simp] theorem setI_sp (w : Word) : (s.setI w).sp = s.sp := rfl
@[simp] theorem setI_dt (w : Word) : (s.setI w).dt = s.dt := rfl
@[simp] theorem setI_st (w : Word) : (s.setI w).st = s.st := rfl
@[simp] theorem setI_fb (w : Word) : (s.setI w).fb = s.fb := rfl
@[simp] theorem setI_redrawReq (w : Word) : (s.setI w).redrawReq = s.redrawReq := rfl
@[simp] theorem setI_beepReq (w : Word) : (s.setI w).beepReq = s.beepReq := rfl
@[simp] theorem setI_status (w : Word) : (s.setI w).status = s.status := rfl
@[simp] theorem setI_cause (w : Word) : (s.setI w).cause = s.cause := rfl
@[simp] theorem setI_outcome (w : Word) : (s.setI w).outcome = s.outcome := rfl
@[simp] theorem setI_schedule (w : Word) : (s.setI w).schedule = s.schedule := rfl
@[simp] theorem setI_ticks (w : Word) : (s.setI w).ticks = s.ticks := rfl

/-! ### `State.setPc` -/

@[simp] theorem setPc_mem (w : Word) : (s.setPc w).mem = s.mem := rfl
@[simp] theorem setPc_v (w : Word) : (s.setPc w).v = s.v := rfl
@[simp] theorem setPc_i (w : Word) : (s.setPc w).i = s.i := rfl
@[simp] theorem setPc_pc (w : Word) : (s.setPc w).pc = w := rfl
@[simp] theorem setPc_stack (w : Word) : (s.setPc w).stack = s.stack := rfl
@[simp] theorem setPc_sp (w : Word) : (s.setPc w).sp = s.sp := rfl
@[simp] theorem setPc_dt (w : Word) : (s.setPc w).dt = s.dt := rfl
@[simp] theorem setPc_st (w : Word) : (s.setPc w).st = s.st := rfl
@[simp] theorem setPc_fb (w : Word) : (s.setPc w).fb = s.fb := rfl
@[simp] theorem setPc_redrawReq (w : Word) : (s.setPc w).redrawReq = s.redrawReq := rfl
@[simp] theorem setPc_beepReq (w : Word) : (s.setPc w).beepReq = s.beepReq := rfl
@[simp] theorem setPc_status (w : Word) : (s.setPc w).status = s.status := rfl
@[simp] theorem setPc_cause (w : Word) : (s.setPc w).cause = s.cause := rfl
@[simp] theorem setPc_outcome (w : Word) : (s.setPc w).outcome = s.outcome := rfl
@[simp] theorem setPc_schedule (w : Word) : (s.setPc w).schedule = s.schedule := rfl
@[simp] theorem setPc_ticks (w : Word) : (s.setPc w).ticks = s.ticks := rfl

/-! ### `State.setDt` -/

@[simp] theorem setDt_mem (b : Byte) : (s.setDt b).mem = s.mem := rfl
@[simp] theorem setDt_v (b : Byte) : (s.setDt b).v = s.v := rfl
@[simp] theorem setDt_i (b : Byte) : (s.setDt b).i = s.i := rfl
@[simp] theorem setDt_pc (b : Byte) : (s.setDt b).pc = s.pc := rfl
@[simp] theorem setDt_stack (b : Byte) : (s.setDt b).stack = s.stack := rfl
@[simp] theorem setDt_sp (b : Byte) : (s.setDt b).sp = s.sp := rfl
@[simp] theorem setDt_dt (b : Byte) : (s.setDt b).dt = b := rfl
@[simp] theorem setDt_st (b : Byte) : (s.setDt b).st = s.st := rfl
@[simp] theorem setDt_fb (b : Byte) : (s.setDt b).fb = s.fb := rfl
@[simp] theorem setDt_redrawReq (b : Byte) : (s.setDt b).redrawReq = s.redrawReq := rfl
@[simp] theorem setDt_beepReq (b : Byte) : (s.setDt b).beepReq = s.beepReq := rfl
@[simp] theorem setDt_status (b : Byte) : (s.setDt b).status = s.status := rfl
@[simp] theorem setDt_cause (b : Byte) : (s.setDt b).cause = s.cause := rfl
@[simp] theorem setDt_outcome (b : Byte) : (s.setDt b).outcome = s.outcome := rfl
@[simp] theorem setDt_schedule (b : Byte) : (s.setDt b).schedule = s.schedule := rfl
@[simp] theorem setDt_ticks (b : Byte) : (s.setDt b).ticks = s.ticks := rfl

/-! ### `State.setSt` -/

@[simp] theorem setSt_mem (b : Byte) : (s.setSt b).mem = s.mem := rfl
@[simp] theorem setSt_v (b : Byte) : (s.setSt b).v = s.v := rfl
@[simp] theorem setSt_i (b : Byte) : (s.setSt b).i = s.i := rfl
@[simp] theorem setSt_pc (b : Byte) : (s.setSt b).pc = s.pc := rfl
@[simp] theorem setSt_stack (b : Byte) : (s.setSt b).stack = s.stack := rfl
@[simp] theorem setSt_sp (b : Byte) : (s.setSt b).sp = s.sp := rfl
@[simp] theorem setSt_dt (b : Byte) : (s.setSt b).dt = s.dt := rfl
@[simp] theorem setSt_st (b : Byte) : (s.setSt b).st = b := rfl
@[simp] theorem setSt_fb (b : Byte) : (s.setSt b).fb = s.fb := rfl
@[simp] theorem setSt_redrawReq (b : Byte) : (s.setSt b).redrawReq = s.redrawReq := rfl
@[simp] theorem setSt_beepReq (b : Byte) : (s.setSt b).beepReq = s.beepReq := rfl
@[simp] theorem setSt_status (b : Byte) : (s.setSt b).status = s.status := rfl
@[simp] theorem setSt_cause (b : Byte) : (s.setSt b).cause = s.cause := rfl
@[simp] theorem setSt_outcome (b : Byte) : (s.setSt b).outcome = s.outcome := rfl
@[simp] theorem setSt_schedule (b : Byte) : (s.setSt b).schedule = s.schedule := rfl
@[simp] theorem setSt_ticks (b : Byte) : (s.setSt b).ticks = s.ticks := rfl

/-! ### `State.setMem` -/

@[simp] theorem setMem_mem (m : Memory) : (s.setMem m).mem = m := rfl
@[simp] theorem setMem_v (m : Memory) : (s.setMem m).v = s.v := rfl
@[simp] theorem setMem_i (m : Memory) : (s.setMem m).i = s.i := rfl
@[simp] theorem setMem_pc (m : Memory) : (s.setMem m).pc = s.pc := rfl
@[simp] theorem setMem_stack (m : Memory) : (s.setMem m).stack = s.stack := rfl
@[simp] theorem setMem_sp (m : Memory) : (s.setMem m).sp = s.sp := rfl
@[simp] theorem setMem_dt (m : Memory) : (s.setMem m).dt = s.dt := rfl
@[simp] theorem setMem_st (m : Memory) : (s.setMem m).st = s.st := rfl
@[simp] theorem setMem_fb (m : Memory) : (s.setMem m).fb = s.fb := rfl
@[simp] theorem setMem_redrawReq (m : Memory) : (s.setMem m).redrawReq = s.redrawReq := rfl
@[simp] theorem setMem_beepReq (m : Memory) : (s.setMem m).beepReq = s.beepReq := rfl
@[simp] theorem setMem_status (m : Memory) : (s.setMem m).status = s.status := rfl
@[simp] theorem setMem_cause (m : Memory) : (s.setMem m).cause = s.cause := rfl
@[simp] theorem setMem_outcome (m : Memory) : (s.setMem m).outcome = s.outcome := rfl
@[simp] theorem setMem_schedule (m : Memory) : (s.setMem m).schedule = s.schedule := rfl
@[simp] theorem setMem_ticks (m : Memory) : (s.setMem m).ticks = s.ticks := rfl

/-! ### `State.setFb` -/

@[simp] theorem setFb_mem (fb : Framebuffer) : (s.setFb fb).mem = s.mem := rfl
@[simp] theorem setFb_v (fb : Framebuffer) : (s.setFb fb).v = s.v := rfl
@[simp] theorem setFb_i (fb : Framebuffer) : (s.setFb fb).i = s.i := rfl
@[simp] theorem setFb_pc (fb : Framebuffer) : (s.setFb fb).pc = s.pc := rfl
@[simp] theorem setFb_stack (fb : Framebuffer) : (s.setFb fb).stack = s.stack := rfl
@[simp] theorem setFb_sp (fb : Framebuffer) : (s.setFb fb).sp = s.sp := rfl
@[simp] theorem setFb_dt (fb : Framebuffer) : (s.setFb fb).dt = s.dt := rfl
@[simp] theorem setFb_st (fb : Framebuffer) : (s.setFb fb).st = s.st := rfl
@[simp] theorem setFb_fb (fb : Framebuffer) : (s.setFb fb).fb = fb := rfl
@[simp] theorem setFb_redrawReq (fb : Framebuffer) : (s.setFb fb).redrawReq = true := rfl
@[simp] theorem setFb_beepReq (fb : Framebuffer) : (s.setFb fb).beepReq = s.beepReq := rfl
@[simp] theorem setFb_status (fb : Framebuffer) : (s.setFb fb).status = s.status := rfl
@[simp] theorem setFb_cause (fb : Framebuffer) : (s.setFb fb).cause = s.cause := rfl
@[simp] theorem setFb_outcome (fb : Framebuffer) : (s.setFb fb).outcome = s.outcome := rfl
@[simp] theorem setFb_schedule (fb : Framebuffer) : (s.setFb fb).schedule = s.schedule := rfl
@[simp] theorem setFb_ticks (fb : Framebuffer) : (s.setFb fb).ticks = s.ticks := rfl

/-! ### `State.push` -/

@[simp] theorem push_mem (w : Word) (h : s.sp.val < 16) : (s.push w h).mem = s.mem := rfl
@[simp] theorem push_v (w : Word) (h : s.sp.val < 16) : (s.push w h).v = s.v := rfl
@[simp] theorem push_i (w : Word) (h : s.sp.val < 16) : (s.push w h).i = s.i := rfl
@[simp] theorem push_pc (w : Word) (h : s.sp.val < 16) : (s.push w h).pc = s.pc := rfl
@[simp] theorem push_stack (w : Word) (h : s.sp.val < 16) : (s.push w h).stack = s.stack.set s.sp.val w h := rfl
@[simp] theorem push_sp (w : Word) (h : s.sp.val < 16) : (s.push w h).sp = ⟨s.sp.val + 1, by omega⟩ := rfl
@[simp] theorem push_dt (w : Word) (h : s.sp.val < 16) : (s.push w h).dt = s.dt := rfl
@[simp] theorem push_st (w : Word) (h : s.sp.val < 16) : (s.push w h).st = s.st := rfl
@[simp] theorem push_fb (w : Word) (h : s.sp.val < 16) : (s.push w h).fb = s.fb := rfl
@[simp] theorem push_redrawReq (w : Word) (h : s.sp.val < 16) : (s.push w h).redrawReq = s.redrawReq := rfl
@[simp] theorem push_beepReq (w : Word) (h : s.sp.val < 16) : (s.push w h).beepReq = s.beepReq := rfl
@[simp] theorem push_status (w : Word) (h : s.sp.val < 16) : (s.push w h).status = s.status := rfl
@[simp] theorem push_cause (w : Word) (h : s.sp.val < 16) : (s.push w h).cause = s.cause := rfl
@[simp] theorem push_outcome (w : Word) (h : s.sp.val < 16) : (s.push w h).outcome = s.outcome := rfl
@[simp] theorem push_schedule (w : Word) (h : s.sp.val < 16) : (s.push w h).schedule = s.schedule := rfl
@[simp] theorem push_ticks (w : Word) (h : s.sp.val < 16) : (s.push w h).ticks = s.ticks := rfl

/-! ### `State.pop` -/

@[simp] theorem pop_mem : s.pop.mem = s.mem := rfl
@[simp] theorem pop_v : s.pop.v = s.v := rfl
@[simp] theorem pop_i : s.pop.i = s.i := rfl
@[simp] theorem pop_pc : s.pop.pc = s.pc := rfl
@[simp] theorem pop_stack : s.pop.stack = s.stack := rfl
@[simp] theorem pop_sp : s.pop.sp = ⟨s.sp.val - 1, by omega⟩ := rfl
@[simp] theorem pop_dt : s.pop.dt = s.dt := rfl
@[simp] theorem pop_st : s.pop.st = s.st := rfl
@[simp] theorem pop_fb : s.pop.fb = s.fb := rfl
@[simp] theorem pop_redrawReq : s.pop.redrawReq = s.redrawReq := rfl
@[simp] theorem pop_beepReq : s.pop.beepReq = s.beepReq := rfl
@[simp] theorem pop_status : s.pop.status = s.status := rfl
@[simp] theorem pop_cause : s.pop.cause = s.cause := rfl
@[simp] theorem pop_outcome : s.pop.outcome = s.outcome := rfl
@[simp] theorem pop_schedule : s.pop.schedule = s.schedule := rfl
@[simp] theorem pop_ticks : s.pop.ticks = s.ticks := rfl

/-! ### `State.completed` -/

@[simp] theorem completed_mem : s.completed.mem = s.mem := rfl
@[simp] theorem completed_v : s.completed.v = s.v := rfl
@[simp] theorem completed_i : s.completed.i = s.i := rfl
@[simp] theorem completed_pc : s.completed.pc = s.pc := rfl
@[simp] theorem completed_stack : s.completed.stack = s.stack := rfl
@[simp] theorem completed_sp : s.completed.sp = s.sp := rfl
@[simp] theorem completed_dt : s.completed.dt = s.dt := rfl
@[simp] theorem completed_st : s.completed.st = s.st := rfl
@[simp] theorem completed_fb : s.completed.fb = s.fb := rfl
@[simp] theorem completed_redrawReq : s.completed.redrawReq = s.redrawReq := rfl
@[simp] theorem completed_beepReq : s.completed.beepReq = s.beepReq := rfl
@[simp] theorem completed_status : s.completed.status = s.status := rfl
@[simp] theorem completed_cause : s.completed.cause = s.cause := rfl
@[simp] theorem completed_outcome : s.completed.outcome = some .completed := rfl
@[simp] theorem completed_schedule : s.completed.schedule = s.schedule := rfl
@[simp] theorem completed_ticks : s.completed.ticks = s.ticks := rfl

/-! ### `State.waiting` -/

@[simp] theorem waiting_mem : s.waiting.mem = s.mem := rfl
@[simp] theorem waiting_v : s.waiting.v = s.v := rfl
@[simp] theorem waiting_i : s.waiting.i = s.i := rfl
@[simp] theorem waiting_pc : s.waiting.pc = s.pc := rfl
@[simp] theorem waiting_stack : s.waiting.stack = s.stack := rfl
@[simp] theorem waiting_sp : s.waiting.sp = s.sp := rfl
@[simp] theorem waiting_dt : s.waiting.dt = s.dt := rfl
@[simp] theorem waiting_st : s.waiting.st = s.st := rfl
@[simp] theorem waiting_fb : s.waiting.fb = s.fb := rfl
@[simp] theorem waiting_redrawReq : s.waiting.redrawReq = s.redrawReq := rfl
@[simp] theorem waiting_beepReq : s.waiting.beepReq = s.beepReq := rfl
@[simp] theorem waiting_status : s.waiting.status = s.status := rfl
@[simp] theorem waiting_cause : s.waiting.cause = s.cause := rfl
@[simp] theorem waiting_outcome : s.waiting.outcome = some .waiting := rfl
@[simp] theorem waiting_schedule : s.waiting.schedule = s.schedule := rfl
@[simp] theorem waiting_ticks : s.waiting.ticks = s.ticks := rfl

/-! ### `State.programEnd` -/

@[simp] theorem programEnd_mem : s.programEnd.mem = s.mem := rfl
@[simp] theorem programEnd_v : s.programEnd.v = s.v := rfl
@[simp] theorem programEnd_i : s.programEnd.i = s.i := rfl
@[simp] theorem programEnd_pc : s.programEnd.pc = s.pc := rfl
@[simp] theorem programEnd_stack : s.programEnd.stack = s.stack := rfl
@[simp] theorem programEnd_sp : s.programEnd.sp = s.sp := rfl
@[simp] theorem programEnd_dt : s.programEnd.dt = s.dt := rfl
@[simp] theorem programEnd_st : s.programEnd.st = s.st := rfl
@[simp] theorem programEnd_fb : s.programEnd.fb = s.fb := rfl
@[simp] theorem programEnd_redrawReq : s.programEnd.redrawReq = s.redrawReq := rfl
@[simp] theorem programEnd_beepReq : s.programEnd.beepReq = s.beepReq := rfl
@[simp] theorem programEnd_status : s.programEnd.status = .ended := rfl
@[simp] theorem programEnd_cause : s.programEnd.cause = s.cause := rfl
@[simp] theorem programEnd_outcome : s.programEnd.outcome = some .ended := rfl
@[simp] theorem programEnd_schedule : s.programEnd.schedule = s.schedule := rfl
@[simp] theorem programEnd_ticks : s.programEnd.ticks = s.ticks := rfl

/-! ### `State.raised` -/

@[simp] theorem raised_mem (e : Exc) : (s.raised e).mem = s.mem := rfl
@[simp] theorem raised_v (e : Exc) : (s.raised e).v = s.v := rfl
@[simp] theorem raised_i (e : Exc) : (s.raised e).i = s.i := rfl
@[simp] theorem raised_pc (e : Exc) : (s.raised e).pc = s.pc := rfl
@[simp] theorem raised_stack (e : Exc) : (s.raised e).stack = s.stack := rfl
@[simp] theorem raised_sp (e : Exc) : (s.raised e).sp = s.sp := rfl
@[simp] theorem raised_dt (e : Exc) : (s.raised e).dt = s.dt := rfl
@[simp] theorem raised_st (e : Exc) : (s.raised e).st = s.st := rfl
@[simp] theorem raised_fb (e : Exc) : (s.raised e).fb = s.fb := rfl
@[simp] theorem raised_redrawReq (e : Exc) : (s.raised e).redrawReq = s.redrawReq := rfl
@[simp] theorem raised_beepReq (e : Exc) : (s.raised e).beepReq = s.beepReq := rfl
@[simp] theorem raised_status (e : Exc) : (s.raised e).status = .fault := rfl
@[simp] theorem raised_cause (e : Exc) : (s.raised e).cause = e.cause := rfl
@[simp] theorem raised_outcome (e : Exc) : (s.raised e).outcome = some (.fault e) := rfl
@[simp] theorem raised_schedule (e : Exc) : (s.raised e).schedule = s.schedule := rfl
@[simp] theorem raised_ticks (e : Exc) : (s.raised e).ticks = s.ticks := rfl

/-! ### `State.timerStep` -/

@[simp] theorem timerStep_mem : s.timerStep.mem = s.mem := rfl
@[simp] theorem timerStep_v : s.timerStep.v = s.v := rfl
@[simp] theorem timerStep_i : s.timerStep.i = s.i := rfl
@[simp] theorem timerStep_pc : s.timerStep.pc = s.pc := rfl
@[simp] theorem timerStep_stack : s.timerStep.stack = s.stack := rfl
@[simp] theorem timerStep_sp : s.timerStep.sp = s.sp := rfl
@[simp] theorem timerStep_dt : s.timerStep.dt = if s.dt = 0 then 0 else s.dt - 1 := rfl
@[simp] theorem timerStep_st : s.timerStep.st = if s.st = 0 then 0 else s.st - 1 := rfl
@[simp] theorem timerStep_fb : s.timerStep.fb = s.fb := rfl
@[simp] theorem timerStep_redrawReq : s.timerStep.redrawReq = s.redrawReq := rfl
@[simp] theorem timerStep_beepReq : s.timerStep.beepReq = (s.beepReq || decide (s.st = 1)) := rfl
@[simp] theorem timerStep_status : s.timerStep.status = s.status := rfl
@[simp] theorem timerStep_cause : s.timerStep.cause = s.cause := rfl
@[simp] theorem timerStep_outcome : s.timerStep.outcome = s.outcome := rfl
@[simp] theorem timerStep_schedule : s.timerStep.schedule = s.schedule := rfl
@[simp] theorem timerStep_ticks : s.timerStep.ticks = s.ticks := rfl

/-! ### `State.endTick` -/

@[simp] theorem endTick_mem : s.endTick.mem = s.mem := rfl
@[simp] theorem endTick_v : s.endTick.v = s.v := rfl
@[simp] theorem endTick_i : s.endTick.i = s.i := rfl
@[simp] theorem endTick_pc : s.endTick.pc = s.pc := rfl
@[simp] theorem endTick_stack : s.endTick.stack = s.stack := rfl
@[simp] theorem endTick_sp : s.endTick.sp = s.sp := rfl
@[simp] theorem endTick_dt : s.endTick.dt = s.dt := rfl
@[simp] theorem endTick_st : s.endTick.st = s.st := rfl
@[simp] theorem endTick_fb : s.endTick.fb = s.fb := rfl
@[simp] theorem endTick_redrawReq : s.endTick.redrawReq = s.redrawReq := rfl
@[simp] theorem endTick_beepReq : s.endTick.beepReq = s.beepReq := rfl
@[simp] theorem endTick_status : s.endTick.status = s.status := rfl
@[simp] theorem endTick_cause : s.endTick.cause = s.cause := rfl
@[simp] theorem endTick_outcome : s.endTick.outcome = s.outcome := rfl
@[simp] theorem endTick_schedule : s.endTick.schedule = s.schedule.tail := rfl
@[simp] theorem endTick_ticks : s.endTick.ticks = s.ticks + 1 := rfl

/-! ### `State.ackRedraw` -/

@[simp] theorem ackRedraw_mem : s.ackRedraw.mem = s.mem := rfl
@[simp] theorem ackRedraw_v : s.ackRedraw.v = s.v := rfl
@[simp] theorem ackRedraw_i : s.ackRedraw.i = s.i := rfl
@[simp] theorem ackRedraw_pc : s.ackRedraw.pc = s.pc := rfl
@[simp] theorem ackRedraw_stack : s.ackRedraw.stack = s.stack := rfl
@[simp] theorem ackRedraw_sp : s.ackRedraw.sp = s.sp := rfl
@[simp] theorem ackRedraw_dt : s.ackRedraw.dt = s.dt := rfl
@[simp] theorem ackRedraw_st : s.ackRedraw.st = s.st := rfl
@[simp] theorem ackRedraw_fb : s.ackRedraw.fb = s.fb := rfl
@[simp] theorem ackRedraw_redrawReq : s.ackRedraw.redrawReq = false := rfl
@[simp] theorem ackRedraw_beepReq : s.ackRedraw.beepReq = s.beepReq := rfl
@[simp] theorem ackRedraw_status : s.ackRedraw.status = s.status := rfl
@[simp] theorem ackRedraw_cause : s.ackRedraw.cause = s.cause := rfl
@[simp] theorem ackRedraw_outcome : s.ackRedraw.outcome = s.outcome := rfl
@[simp] theorem ackRedraw_schedule : s.ackRedraw.schedule = s.schedule := rfl
@[simp] theorem ackRedraw_ticks : s.ackRedraw.ticks = s.ticks := rfl

/-! ### `State.ackBeep` -/

@[simp] theorem ackBeep_mem : s.ackBeep.mem = s.mem := rfl
@[simp] theorem ackBeep_v : s.ackBeep.v = s.v := rfl
@[simp] theorem ackBeep_i : s.ackBeep.i = s.i := rfl
@[simp] theorem ackBeep_pc : s.ackBeep.pc = s.pc := rfl
@[simp] theorem ackBeep_stack : s.ackBeep.stack = s.stack := rfl
@[simp] theorem ackBeep_sp : s.ackBeep.sp = s.sp := rfl
@[simp] theorem ackBeep_dt : s.ackBeep.dt = s.dt := rfl
@[simp] theorem ackBeep_st : s.ackBeep.st = s.st := rfl
@[simp] theorem ackBeep_fb : s.ackBeep.fb = s.fb := rfl
@[simp] theorem ackBeep_redrawReq : s.ackBeep.redrawReq = s.redrawReq := rfl
@[simp] theorem ackBeep_beepReq : s.ackBeep.beepReq = false := rfl
@[simp] theorem ackBeep_status : s.ackBeep.status = s.status := rfl
@[simp] theorem ackBeep_cause : s.ackBeep.cause = s.cause := rfl
@[simp] theorem ackBeep_outcome : s.ackBeep.outcome = s.outcome := rfl
@[simp] theorem ackBeep_schedule : s.ackBeep.schedule = s.schedule := rfl
@[simp] theorem ackBeep_ticks : s.ackBeep.ticks = s.ticks := rfl

end Sys2Proof.Machine
end

