-- ==== Sys2Proof/Laws/Registers.lean ====
section
/-! SUPPORT. The register file: what a read sees after each of the ways it is written. -/

namespace Sys2Proof.Machine

/-- A read after a write: the value written to that register, every other register as before (spec/10_state.md R21). -/
@[simp] theorem read_write (v : RegFile) (x : Reg) (b : Byte) (r : Reg) :
    (v.write x b).read r = if r = x then b else v.read r := by
  unfold RegFile.read RegFile.write
  rw [Vector.getElem_set]
  by_cases h : r = x
  · simp [h]
  · have : ¬ x.toNat = r.toNat := fun e => h (BitVec.eq_of_toNat_eq e.symm)
    simp [h, this]

/-- A register read of a state is a read of its register file. -/
theorem reg_eq (s : State) (x : Reg) : s.reg x = s.v.read x := rfl

/-- `V[x]` after a write of one register. -/
@[simp] theorem reg_setReg (s : State) (x : Reg) (b : Byte) (r : Reg) :
    (s.setReg x b).reg r = if r = x then b else s.reg r := read_write s.v x b r

/-- `V[x]` after a write of all registers. -/
@[simp] theorem reg_setV (s : State) (v : RegFile) (r : Reg) : (s.setV v).reg r = v.read r := rfl

/-- Writes of other fields leave the registers. -/
@[simp] theorem reg_setPc (s : State) (w : Word) (r : Reg) : (s.setPc w).reg r = s.reg r := rfl
@[simp] theorem reg_setI (s : State) (w : Word) (r : Reg) : (s.setI w).reg r = s.reg r := rfl
@[simp] theorem reg_setDt (s : State) (b : Byte) (r : Reg) : (s.setDt b).reg r = s.reg r := rfl
@[simp] theorem reg_setSt (s : State) (b : Byte) (r : Reg) : (s.setSt b).reg r = s.reg r := rfl
@[simp] theorem reg_setMem (s : State) (m : Memory) (r : Reg) : (s.setMem m).reg r = s.reg r := rfl
@[simp] theorem reg_setFb (s : State) (fb : Framebuffer) (r : Reg) : (s.setFb fb).reg r = s.reg r := rfl
@[simp] theorem reg_push (s : State) (w : Word) (h : s.sp.val < 16) (r : Reg) : (s.push w h).reg r = s.reg r := rfl
@[simp] theorem reg_pop (s : State) (r : Reg) : s.pop.reg r = s.reg r := rfl
@[simp] theorem reg_completed (s : State) (r : Reg) : s.completed.reg r = s.reg r := rfl
@[simp] theorem reg_waiting (s : State) (r : Reg) : s.waiting.reg r = s.reg r := rfl
@[simp] theorem reg_programEnd (s : State) (r : Reg) : s.programEnd.reg r = s.reg r := rfl
@[simp] theorem reg_raised (s : State) (e : Exc) (r : Reg) : (s.raised e).reg r = s.reg r := rfl
@[simp] theorem reg_timerStep (s : State) (r : Reg) : s.timerStep.reg r = s.reg r := rfl
@[simp] theorem reg_endTick (s : State) (r : Reg) : s.endTick.reg r = s.reg r := rfl

/-- A flagged result under `flag_first` (spec/41_register_alu.md R140): the result in `x`, the flag in `VF` unless `x` is
`VF`, the rest as before. -/
theorem read_writeFlagged_first (v : RegFile) (x : Reg) (result flag : Byte) (r : Reg) :
    (writeFlagged .flagFirst v x result flag).read r =
      if r = x then result else if r = flagReg then flag else v.read r := by
  simp [writeFlagged]

/-- A shifted result under `flag_first` (spec/41_register_alu.md R149). -/
theorem read_writeShifted_first (v : RegFile) (x y : Reg) (result flag : Byte) (r : Reg) :
    (writeShifted .flagFirst v x y result flag).read r =
      if r = x ∨ r = y then result else if r = flagReg then flag else v.read r := by
  by_cases hx : r = x <;> by_cases hy : r = y <;> simp [writeShifted, hx, hy]

/-- Registers written from a block: `V[k]` on, in order, the rest as before (spec/44_index_memory.md R204). -/
theorem read_writeRegs (k : Nat) (bs : List Byte) (v : RegFile) (h : k + bs.length ≤ 16) (r : Reg) :
    (writeRegs k bs v).read r =
      if k ≤ r.toNat then (bs[r.toNat - k]?).getD (v.read r) else v.read r := by
  induction bs generalizing k v with
  | nil => simp [writeRegs]
  | cons b rest ih =>
    simp only [List.length_cons] at h
    rw [writeRegs, ih (k + 1) _ (by omega), read_write]
    have hk : r = BitVec.ofNat 4 k ↔ r.toNat = k := by
      rw [BitVec.toNat_eq, BitVec.toNat_ofNat, Nat.mod_eq_of_lt (by omega)]
    by_cases h1 : k + 1 ≤ r.toNat
    · obtain ⟨d, hd⟩ : ∃ d, r.toNat = k + 1 + d := ⟨r.toNat - (k + 1), by omega⟩
      have e1 : k + 1 + d - (k + 1) = d := by omega
      have e2 : k + 1 + d - k = d + 1 := by omega
      have e3 : ¬ k + 1 + d = k := by omega
      have e4 : k ≤ k + 1 + d := by omega
      simp [hk, hd, e1, e2, e3, e4]
    · by_cases h2 : r.toNat = k
      · simp [hk, h2]
      · have h3 : ¬ k ≤ r.toNat := by omega
        simp [hk, h1, h2, h3]

/-- How many bytes a block load gives. -/
@[simp] theorem length_loadBytes (oob : Config.DataOob) (i : Word) (m : Memory) (k n : Nat) :
    (loadBytes oob i m k n).length = n := by
  induction n generalizing k with
  | zero => rfl
  | succ n ih => simp [loadBytes, ih]

/-- The bytes of a block load. -/
theorem getElem?_loadBytes (oob : Config.DataOob) (i : Word) (m : Memory) (k n j : Nat) :
    (loadBytes oob i m k n)[j]? = if j < n then some (memGet m (dataAddr oob i (k + j))) else none := by
  induction n generalizing k j with
  | zero => simp [loadBytes]
  | succ n ih =>
    cases j with
    | zero => simp [loadBytes]
    | succ j => simp [loadBytes, ih, Nat.add_assoc, Nat.add_comm 1 j]

/-- How many bytes a run of registers gives. -/
@[simp] theorem length_regBytes (v : RegFile) (k n : Nat) : (regBytes v k n).length = n := by
  induction n generalizing k with
  | zero => rfl
  | succ n ih => simp [regBytes, ih]

/-- The bytes of a run of registers. -/
theorem getElem?_regBytes (v : RegFile) (k n j : Nat) :
    (regBytes v k n)[j]? = if j < n then some (v.read (BitVec.ofNat 4 (k + j))) else none := by
  induction n generalizing k j with
  | zero => simp [regBytes]
  | succ n ih =>
    cases j with
    | zero => simp [regBytes]
    | succ j => simp [regBytes, ih, Nat.add_assoc, Nat.add_comm 1 j]

end Sys2Proof.Machine
end

