-- ==== Sys2Proof/Laws/Blocks.lean ====
section
/-! SUPPORT. Blocks of memory at `I`, and the bound that is checked before any of a block's accesses. -/

namespace Sys2Proof.Machine

/-- The bound of R68 holds exactly when no byte, or none above 0xFFF, is accessed. -/
theorem dataFault_eq_none_iff (i : Word) (n : Nat) :
    dataFault .fault i n = none ↔ n = 0 ∨ i.toNat + n ≤ 4096 := by
  simp only [dataFault]
  split
  · simp only [reduceCtorEq, false_iff]; omega
  · simp only [true_iff]; omega

/-- The fault of R68 and R227, with the lowest address above 0xFFF. -/
theorem dataFault_eq_some {i : Word} {n : Nat} (hn : 0 < n) (h : 4096 < i.toNat + n) :
    dataFault .fault i n = some (.dataAddressRange (max i.toNat 0x1000)) := by
  simp only [dataFault]
  rw [if_pos (by omega)]

/-- Everything an access of a block can do: take the fault of R227 and nothing else, or complete. -/
theorem completeAccess_cases {oob : Config.DataOob} {n : Nat} {s t u : State}
    (h : completeAccess oob n s t = .next u) :
    (∃ e, dataFault oob s.i n = some e ∧ u = s.raised e) ∨ (dataFault oob s.i n = none ∧ u = t.completed) := by
  unfold completeAccess at h
  split at h
  · next e he => exact .inl ⟨e, he, by simpa [raise] using h.symm⟩
  · next he => exact .inr ⟨he, by simpa [complete] using h.symm⟩

/-- An access whose addresses are all in range completes. -/
theorem completeAccess_in_range {n : Nat} {s t : State} (h : n = 0 ∨ s.i.toNat + n ≤ 4096) :
    completeAccess .fault n s t = .next t.completed := by
  simp [completeAccess, (dataFault_eq_none_iff s.i n).2 h, complete]

/-- An access that reaches above 0xFFF takes the fault of R227. -/
theorem completeAccess_out_of_range {n : Nat} {s t : State} (hn : 0 < n) (h : 4096 < s.i.toNat + n) :
    completeAccess .fault n s t = .next (s.raised (.dataAddressRange (max s.i.toNat 0x1000))) := by
  simp [completeAccess, dataFault_eq_some hn h, raise]

/-- Reading after a block store in range: the block's bytes in order, every other byte as before
(spec/44_index_memory.md R203, R205). -/
theorem memGet_storeBytes (i : Word) (k : Nat) (bs : List Byte) {m : Memory} (hm : m.wf)
    (h : i.toNat + k + bs.length ≤ 4096) (a : Nat) :
    memGet (storeBytes .fault i k bs m) a =
      if i.toNat + k ≤ a then (bs[a - (i.toNat + k)]?).getD (memGet m a) else memGet m a := by
  induction bs generalizing k m with
  | nil => simp [storeBytes]
  | cons b rest ih =>
    simp only [List.length_cons] at h
    have hlt : i.toNat + k < Config.memSize := by simp only [Config.memSize]; omega
    rw [storeBytes, ih (k + 1) (memSet_wf hm _ b) (by omega), memGet_memSet hm]
    simp only [dataAddr, hlt, and_true]
    by_cases h1 : i.toNat + (k + 1) ≤ a
    · obtain ⟨d, rfl⟩ : ∃ d, a = i.toNat + (k + 1) + d := ⟨a - (i.toNat + (k + 1)), by omega⟩
      have e1 : i.toNat + (k + 1) + d - (i.toNat + (k + 1)) = d := by omega
      have e2 : i.toNat + (k + 1) + d - (i.toNat + k) = d + 1 := by omega
      have e3 : ¬ i.toNat + (k + 1) + d = i.toNat + k := by omega
      have e4 : i.toNat + k ≤ i.toNat + (k + 1) + d := by omega
      simp [e1, e2, e3, e4]
    · by_cases h2 : a = i.toNat + k
      · have : ¬ i.toNat + (k + 1) ≤ i.toNat + k := by omega
        simp [h2, this]
      · have : ¬ i.toNat + k ≤ a := by omega
        simp [h1, h2, this]

end Sys2Proof.Machine
end

