-- ==== Sys2Proof/Laws/Cycle.lean ====
section
/-! SUPPORT. What a tick and a step can do: one inversion lemma each. -/

namespace Sys2Proof.Machine

/-- A completing dispatch answers one state. -/
theorem complete_eq_next {s t : State} : complete s = .next t ↔ t = s.completed := by
  simp [complete, eq_comm]

/-- Taking a fault answers one state. -/
theorem raise_eq_next {e : Exc} {s t : State} : raise e s = .next t ↔ t = s.raised e := by
  simp [raise, eq_comm]

/-- The end of a tick whose dispatch completed: the timer step runs (spec/60_exceptions.md R222). -/
theorem finish_completed {s : State} (h : s.outcome = some .completed) : s.finish = s.timerStep.endTick := by
  simp [State.finish, h]

/-- The end of any other tick: no timer step (spec/60_exceptions.md R222). -/
theorem finish_not_completed {s : State} (h : s.outcome ≠ some .completed) : s.finish = s.endTick := by
  simp [State.finish, h]

/-- The rest of the cycle after a dispatch that answered a state. -/
theorem afterDispatch_eq_next {o : Host.Outcome State Fault Refusal} {t : State} :
    afterDispatch o = .next t ↔ ∃ u, o = .next u ∧ t = u.finish := by
  cases o <;> simp [afterDispatch, eq_comm]

/-- Everything a cycle can do: fault at the fetch, fault at decode, or run the decoded instruction
(spec/60_exceptions.md R220, R231). -/
theorem cycle_cases {s t : State} (h : cycle s = .next t) :
    (0xFFE < s.pc.toNat ∧ t = (s.raised (.fetchAddressRange s.pc)).finish) ∨
    (s.pc.toNat ≤ 0xFFE ∧ ∃ w, w = bytesToWord (memGet s.mem s.pc.toNat) (memGet s.mem (s.pc.toNat + 1)) ∧
      ((decodeWord w = .error (.unknown w) ∧ t = (s.raised (.unknownInstruction w)).finish) ∨
       (∃ i u, decodeWord w = .ok i ∧ exec i s = .next u ∧ t = u.finish))) := by
  unfold cycle fetchWord at h
  by_cases hpc : s.pc.toNat > 0xFFE
  · rw [if_pos hpc] at h
    exact .inl ⟨hpc, by simpa [raise, afterDispatch] using h.symm⟩
  · rw [if_neg hpc] at h
    refine .inr ⟨by omega, _, rfl, ?_⟩
    obtain ⟨u, hu, rfl⟩ := afterDispatch_eq_next.1 h
    unfold runWord at hu
    split at hu
    · next e he =>
      have : e = .unknown (bytesToWord (memGet s.mem s.pc.toNat) (memGet s.mem (s.pc.toNat + 1))) := by
        unfold decodeWord at he; split at he <;> simp_all
      exact .inl ⟨this ▸ he, by rw [raise_eq_next.1 hu]⟩
    · next i hi => exact .inr ⟨i, u, hi, hu, rfl⟩

/-- Everything a tick can do: a cycle of a running engine, or nothing in a stopped one (spec/60_exceptions.md R230). -/
theorem tick_cases {s t : State} (h : tick s = .next t) :
    (s.status = .run ∧ cycle s = .next t) ∨
    (s.status ≠ .run ∧ t = { s with outcome := some .stopped }.endTick) := by
  unfold tick at h
  split at h
  · next hs => exact .inl ⟨hs, h⟩
  · next hs => exact .inr ⟨hs, by simpa using h.symm⟩

/-- Everything a step can do: the host's next move (spec/60_exceptions.md R244). -/
theorem step_cases {s t : State} (h : step s = .next t) :
    (nextIsTick s.schedule = true ∧ tick s = .next t) ∨
    (∃ image rest, s.schedule = .reset image :: rest ∧ t = { s.hostReset image with schedule := rest }) ∨
    (∃ rest, s.schedule = .redrawAck :: rest ∧ t = { s.ackRedraw with schedule := rest }) ∨
    (∃ rest, s.schedule = .beepAck :: rest ∧ t = { s.ackBeep with schedule := rest }) := by
  unfold step hostStep at h
  split at h
  · next hs => exact .inl ⟨by simp [hs, nextIsTick], h⟩
  · next hs => exact .inl ⟨by simp [hs, nextIsTick], h⟩
  · next image rest hs => exact .inr (.inl ⟨image, rest, hs, by simpa using h.symm⟩)
  · next rest hs => exact .inr (.inr (.inl ⟨rest, hs, by simpa using h.symm⟩))
  · next rest hs => exact .inr (.inr (.inr ⟨rest, hs, by simpa using h.symm⟩))

/-- A step whose next move is a tick is that tick. -/
theorem step_of_tick {s : State} (h : nextIsTick s.schedule = true) : step s = tick s := by
  unfold step hostStep
  split <;> simp_all [nextIsTick]

/-- A reset with an image that fits, and with one that does not (spec/70_reset_and_hazards.md R261, R264). -/
theorem hostReset_fits {s : State} {image : List Byte} (h : imageOk image = true) :
    s.hostReset image = { State.reset with mem := loadImage image, schedule := s.schedule, ticks := s.ticks } := by
  simp [State.hostReset, h]

theorem hostReset_overflow {s : State} {image : List Byte} (h : imageOk image = false) :
    s.hostReset image =
      { State.reset.raised (.loadOverflow image.length) with schedule := s.schedule, ticks := s.ticks } := by
  simp [State.hostReset, h]

end Sys2Proof.Machine
end

