-- ==== Sys2Proof/Laws/Display.lean ====
section
/-! SUPPORT. The framebuffer: what each step of a drawing does to each cell. -/

namespace Sys2Proof.Machine

/-- A toggle changes one cell (spec/42_display.md R171). -/
@[simp] theorem cell_toggle (fb : Framebuffer) (x x' : Fin 64) (y y' : Fin 32) :
    (fb.toggle x y).cell x' y' = (fb.cell x' y' ^^ decide (x' = x ∧ y' = y)) := by
  simp only [Framebuffer.cell, Framebuffer.toggle, Vector.getElem_set]
  by_cases hy : y.val = y'.val
  · have hy' : y' = y := Fin.ext hy.symm
    subst hy'
    by_cases hx : x.val = x'.val
    · have hx' : x' = x := Fin.ext hx.symm
      subst hx'
      simp
    · have hx' : ¬ x' = x := fun e => hx (by rw [e])
      simp [hx, hx']
  · have hy' : ¬ y' = y := fun e => hy (by rw [e])
    simp [hy, hy']

/-- The blank framebuffer holds no 1. -/
@[simp] theorem cell_blank (x : Fin 64) (y : Fin 32) : Framebuffer.blank.cell x y = false := by
  simp [Framebuffer.blank, Framebuffer.cell]

/-- A pixel past an edge changes nothing (spec/42_display.md R173, `clip`). -/
@[simp] theorem plot_none (cv : Canvas) : cv.plot none = cv := rfl

/-- A plotted pixel toggles its cell, and is a collision where the cell was 1. -/
@[simp] theorem plot_some (cv : Canvas) (x : Fin 64) (y : Fin 32) :
    cv.plot (some (x, y)) = { fb := cv.fb.toggle x y, hit := cv.hit || cv.fb.cell x y } := rfl

/-- Under `wrap` every pixel has a cell (spec/42_display.md R173). -/
@[simp] theorem pixelCell_wrap (x0 y0 r c : Nat) :
    pixelCell .wrap x0 y0 r c = some (Fin.ofNat 64 (x0 + c), Fin.ofNat 32 (y0 + r)) := rfl

/-- Two framebuffers with the same cells are one. -/
theorem fb_ext {fb fb' : Framebuffer} (h : ∀ x y, fb.cell x y = fb'.cell x y) : fb = fb' := by
  apply Vector.ext
  intro y hy
  apply Vector.ext
  intro x hx
  exact h ⟨x, hx⟩ ⟨y, hy⟩

end Sys2Proof.Machine
end

