-- ==== Sys2Proof/Laws/PerInstr.lean ====
section
/-! SUPPORT. Facts about every instruction as syntax, one lemma per constructor. -/

namespace Sys2Proof.Laws

/-- The bits of a word of format `NNN` under a mask of the high nibble. -/
theorem wordNNN_family (op : Nibble) (nnn : Addr12) : wordNNN op nnn &&& 0xF000#16 = op ++ 0#12 := by
  apply BitVec.eq_of_getLsbD_eq
  intro i hi
  unfold wordNNN
  rw [BitVec.getLsbD_and]
  iterate 2 rw [BitVec.getLsbD_append]
  interval_cases i <;> simp

/-- The bits of a word of format `XNN` under a mask of the high nibble. -/
theorem wordXNN_family (op : Nibble) (x : Reg) (nn : Byte) : wordXNN op x nn &&& 0xF000#16 = op ++ 0#12 := by
  apply BitVec.eq_of_getLsbD_eq
  intro i hi
  unfold wordXNN
  rw [BitVec.getLsbD_and]
  iterate 3 rw [BitVec.getLsbD_append]
  interval_cases i <;> simp

/-- The bits of a word of format `XKK` under a mask of the high nibble and the low byte. -/
theorem wordXNN_subop (op : Nibble) (x : Reg) (nn : Byte) : wordXNN op x nn &&& 0xF0FF#16 = op ++ 0#4 ++ nn := by
  apply BitVec.eq_of_getLsbD_eq
  intro i hi
  unfold wordXNN
  rw [BitVec.getLsbD_and]
  iterate 4 rw [BitVec.getLsbD_append]
  interval_cases i <;> simp

/-- The bits of a word of format `XYN` under a mask of the high nibble. -/
theorem wordXYN_family (op : Nibble) (x y : Reg) (n : Nibble) : wordXYN op x y n &&& 0xF000#16 = op ++ 0#12 := by
  apply BitVec.eq_of_getLsbD_eq
  intro i hi
  unfold wordXYN
  rw [BitVec.getLsbD_and]
  iterate 4 rw [BitVec.getLsbD_append]
  interval_cases i <;> simp

/-- The bits of a word of format `XYN` under a mask of the high and the low nibble. -/
theorem wordXYN_subop (op : Nibble) (x y : Reg) (n : Nibble) :
    wordXYN op x y n &&& 0xF00F#16 = op ++ 0#8 ++ n := by
  apply BitVec.eq_of_getLsbD_eq
  intro i hi
  unfold wordXYN
  rw [BitVec.getLsbD_and]
  iterate 5 rw [BitVec.getLsbD_append]
  interval_cases i <;> simp

/-- The operands of every instruction fit their fields, since their types have the fields' widths. -/
def WellFormed.Statement (i : Instr) : Prop := i.wellFormed = true

/-- The word of every instruction selects the row of the opcode map that bears the instruction's name
(spec/30_encoding.md R100). -/
def RowWord.Statement (i : Instr) : Prop := ∃ r ∈ opcodeRows, r.name = i.rowName ∧ r.selects (encodeWord i) = true

/-- A row that is in the map by position, and selects the word by its masked bits. -/
theorem rowWord_of {i : Instr} (r : OpcodeRow) (hr : r ∈ opcodeRows) (hn : r.name = i.rowName)
    (hw : encodeWord i &&& r.mask = r.value) : RowWord.Statement i :=
  ⟨r, hr, hn, by simp [OpcodeRow.selects, hw]⟩

/-! ### `WellFormed`: every operand fits its field -/

theorem WellFormed.cls : WellFormed.Statement .cls := rfl
theorem WellFormed.ret : WellFormed.Statement .ret := rfl
theorem WellFormed.jp (nnn : Addr12) : WellFormed.Statement (.jp nnn) := decide_eq_true nnn.isLt
theorem WellFormed.call (nnn : Addr12) : WellFormed.Statement (.call nnn) := decide_eq_true nnn.isLt
theorem WellFormed.seImm (x : Reg) (nn : Byte) : WellFormed.Statement (.seImm x nn) := by simp [WellFormed.Statement, Instr.wellFormed, regOk, byteOk, x.isLt, nn.isLt]
theorem WellFormed.sneImm (x : Reg) (nn : Byte) : WellFormed.Statement (.sneImm x nn) := by simp [WellFormed.Statement, Instr.wellFormed, regOk, byteOk, x.isLt, nn.isLt]
theorem WellFormed.seReg (x y : Reg) : WellFormed.Statement (.seReg x y) := by simp [WellFormed.Statement, Instr.wellFormed, regOk, x.isLt, y.isLt]
theorem WellFormed.sneReg (x y : Reg) : WellFormed.Statement (.sneReg x y) := by simp [WellFormed.Statement, Instr.wellFormed, regOk, x.isLt, y.isLt]
theorem WellFormed.ldImm (x : Reg) (nn : Byte) : WellFormed.Statement (.ldImm x nn) := by simp [WellFormed.Statement, Instr.wellFormed, regOk, byteOk, x.isLt, nn.isLt]
theorem WellFormed.addImm (x : Reg) (nn : Byte) : WellFormed.Statement (.addImm x nn) := by simp [WellFormed.Statement, Instr.wellFormed, regOk, byteOk, x.isLt, nn.isLt]
theorem WellFormed.ldReg (x y : Reg) : WellFormed.Statement (.ldReg x y) := by simp [WellFormed.Statement, Instr.wellFormed, regOk, x.isLt, y.isLt]
theorem WellFormed.orReg (x y : Reg) : WellFormed.Statement (.orReg x y) := by simp [WellFormed.Statement, Instr.wellFormed, regOk, x.isLt, y.isLt]
theorem WellFormed.andReg (x y : Reg) : WellFormed.Statement (.andReg x y) := by simp [WellFormed.Statement, Instr.wellFormed, regOk, x.isLt, y.isLt]
theorem WellFormed.xorReg (x y : Reg) : WellFormed.Statement (.xorReg x y) := by simp [WellFormed.Statement, Instr.wellFormed, regOk, x.isLt, y.isLt]
theorem WellFormed.addReg (x y : Reg) : WellFormed.Statement (.addReg x y) := by simp [WellFormed.Statement, Instr.wellFormed, regOk, x.isLt, y.isLt]
theorem WellFormed.subReg (x y : Reg) : WellFormed.Statement (.subReg x y) := by simp [WellFormed.Statement, Instr.wellFormed, regOk, x.isLt, y.isLt]
theorem WellFormed.shr (x y : Reg) : WellFormed.Statement (.shr x y) := by simp [WellFormed.Statement, Instr.wellFormed, regOk, x.isLt, y.isLt]
theorem WellFormed.subn (x y : Reg) : WellFormed.Statement (.subn x y) := by simp [WellFormed.Statement, Instr.wellFormed, regOk, x.isLt, y.isLt]
theorem WellFormed.shl (x y : Reg) : WellFormed.Statement (.shl x y) := by simp [WellFormed.Statement, Instr.wellFormed, regOk, x.isLt, y.isLt]
theorem WellFormed.jpV0 (nnn : Addr12) : WellFormed.Statement (.jpV0 nnn) := decide_eq_true nnn.isLt
theorem WellFormed.rnd (x : Reg) (nn : Byte) : WellFormed.Statement (.rnd x nn) := by simp [WellFormed.Statement, Instr.wellFormed, regOk, byteOk, x.isLt, nn.isLt]
theorem WellFormed.drw (x y : Reg) (n : Nibble) : WellFormed.Statement (.drw x y n) := by simp [WellFormed.Statement, Instr.wellFormed, regOk, nibbleOk, x.isLt, y.isLt, n.isLt]
theorem WellFormed.skp (x : Reg) : WellFormed.Statement (.skp x) := decide_eq_true x.isLt
theorem WellFormed.sknp (x : Reg) : WellFormed.Statement (.sknp x) := decide_eq_true x.isLt
theorem WellFormed.ldI (nnn : Addr12) : WellFormed.Statement (.ldI nnn) := decide_eq_true nnn.isLt
theorem WellFormed.ldVxDt (x : Reg) : WellFormed.Statement (.ldVxDt x) := decide_eq_true x.isLt
theorem WellFormed.ldVxK (x : Reg) : WellFormed.Statement (.ldVxK x) := decide_eq_true x.isLt
theorem WellFormed.ldDtVx (x : Reg) : WellFormed.Statement (.ldDtVx x) := decide_eq_true x.isLt
theorem WellFormed.ldStVx (x : Reg) : WellFormed.Statement (.ldStVx x) := decide_eq_true x.isLt
theorem WellFormed.addI (x : Reg) : WellFormed.Statement (.addI x) := decide_eq_true x.isLt
theorem WellFormed.ldF (x : Reg) : WellFormed.Statement (.ldF x) := decide_eq_true x.isLt
theorem WellFormed.storeRegs (x : Reg) : WellFormed.Statement (.storeRegs x) := decide_eq_true x.isLt
theorem WellFormed.loadRegs (x : Reg) : WellFormed.Statement (.loadRegs x) := decide_eq_true x.isLt
theorem WellFormed.bcd (x : Reg) : WellFormed.Statement (.bcd x) := decide_eq_true x.isLt

/-! ### `RowWord`: the word of each instruction selects its row -/

theorem RowWord.cls : RowWord.Statement .cls :=
  rowWord_of ⟨"CLS", 0x00E0#16, 0xFFFF#16⟩ (by decide) rfl (rfl)
theorem RowWord.ret : RowWord.Statement .ret :=
  rowWord_of ⟨"RET", 0x00EE#16, 0xFFFF#16⟩ (by decide) rfl (rfl)
theorem RowWord.jp (nnn : Addr12) : RowWord.Statement (.jp nnn) :=
  rowWord_of ⟨"JP_NNN", 0x1000#16, 0xF000#16⟩ (by decide) rfl (wordNNN_family _ _)
theorem RowWord.call (nnn : Addr12) : RowWord.Statement (.call nnn) :=
  rowWord_of ⟨"CALL_NNN", 0x2000#16, 0xF000#16⟩ (by decide) rfl (wordNNN_family _ _)
theorem RowWord.seImm (x : Reg) (nn : Byte) : RowWord.Statement (.seImm x nn) :=
  rowWord_of ⟨"SE_Vx_NN", 0x3000#16, 0xF000#16⟩ (by decide) rfl (wordXNN_family _ _ _)
theorem RowWord.sneImm (x : Reg) (nn : Byte) : RowWord.Statement (.sneImm x nn) :=
  rowWord_of ⟨"SNE_Vx_NN", 0x4000#16, 0xF000#16⟩ (by decide) rfl (wordXNN_family _ _ _)
theorem RowWord.seReg (x y : Reg) : RowWord.Statement (.seReg x y) :=
  rowWord_of ⟨"SE_Vx_Vy", 0x5000#16, 0xF000#16⟩ (by decide) rfl (wordXYN_family _ _ _ _)
theorem RowWord.sneReg (x y : Reg) : RowWord.Statement (.sneReg x y) :=
  rowWord_of ⟨"SNE_Vx_Vy", 0x9000#16, 0xF000#16⟩ (by decide) rfl (wordXYN_family _ _ _ _)
theorem RowWord.ldImm (x : Reg) (nn : Byte) : RowWord.Statement (.ldImm x nn) :=
  rowWord_of ⟨"LD_Vx_NN", 0x6000#16, 0xF000#16⟩ (by decide) rfl (wordXNN_family _ _ _)
theorem RowWord.addImm (x : Reg) (nn : Byte) : RowWord.Statement (.addImm x nn) :=
  rowWord_of ⟨"ADD_Vx_NN", 0x7000#16, 0xF000#16⟩ (by decide) rfl (wordXNN_family _ _ _)
theorem RowWord.ldReg (x y : Reg) : RowWord.Statement (.ldReg x y) :=
  rowWord_of ⟨"LD_Vx_Vy", 0x8000#16, 0xF00F#16⟩ (by decide) rfl (wordXYN_subop _ _ _ _)
theorem RowWord.orReg (x y : Reg) : RowWord.Statement (.orReg x y) :=
  rowWord_of ⟨"OR_Vx_Vy", 0x8001#16, 0xF00F#16⟩ (by decide) rfl (wordXYN_subop _ _ _ _)
theorem RowWord.andReg (x y : Reg) : RowWord.Statement (.andReg x y) :=
  rowWord_of ⟨"AND_Vx_Vy", 0x8002#16, 0xF00F#16⟩ (by decide) rfl (wordXYN_subop _ _ _ _)
theorem RowWord.xorReg (x y : Reg) : RowWord.Statement (.xorReg x y) :=
  rowWord_of ⟨"XOR_Vx_Vy", 0x8003#16, 0xF00F#16⟩ (by decide) rfl (wordXYN_subop _ _ _ _)
theorem RowWord.addReg (x y : Reg) : RowWord.Statement (.addReg x y) :=
  rowWord_of ⟨"ADD_Vx_Vy", 0x8004#16, 0xF00F#16⟩ (by decide) rfl (wordXYN_subop _ _ _ _)
theorem RowWord.subReg (x y : Reg) : RowWord.Statement (.subReg x y) :=
  rowWord_of ⟨"SUB_Vx_Vy", 0x8005#16, 0xF00F#16⟩ (by decide) rfl (wordXYN_subop _ _ _ _)
theorem RowWord.shr (x y : Reg) : RowWord.Statement (.shr x y) :=
  rowWord_of ⟨"SHR_Vx_Vy", 0x8006#16, 0xF00F#16⟩ (by decide) rfl (wordXYN_subop _ _ _ _)
theorem RowWord.subn (x y : Reg) : RowWord.Statement (.subn x y) :=
  rowWord_of ⟨"SUBN_Vx_Vy", 0x8007#16, 0xF00F#16⟩ (by decide) rfl (wordXYN_subop _ _ _ _)
theorem RowWord.shl (x y : Reg) : RowWord.Statement (.shl x y) :=
  rowWord_of ⟨"SHL_Vx_Vy", 0x800E#16, 0xF00F#16⟩ (by decide) rfl (wordXYN_subop _ _ _ _)
theorem RowWord.jpV0 (nnn : Addr12) : RowWord.Statement (.jpV0 nnn) :=
  rowWord_of ⟨"JP_V0_NNN", 0xB000#16, 0xF000#16⟩ (by decide) rfl (wordNNN_family _ _)
theorem RowWord.rnd (x : Reg) (nn : Byte) : RowWord.Statement (.rnd x nn) :=
  rowWord_of ⟨"RND_Vx_NN", 0xC000#16, 0xF000#16⟩ (by decide) rfl (wordXNN_family _ _ _)
theorem RowWord.drw (x y : Reg) (n : Nibble) : RowWord.Statement (.drw x y n) :=
  rowWord_of ⟨"DRW_Vx_Vy_N", 0xD000#16, 0xF000#16⟩ (by decide) rfl (wordXYN_family _ _ _ _)
theorem RowWord.skp (x : Reg) : RowWord.Statement (.skp x) :=
  rowWord_of ⟨"SKP_Vx", 0xE09E#16, 0xF0FF#16⟩ (by decide) rfl (wordXNN_subop _ _ _)
theorem RowWord.sknp (x : Reg) : RowWord.Statement (.sknp x) :=
  rowWord_of ⟨"SKNP_Vx", 0xE0A1#16, 0xF0FF#16⟩ (by decide) rfl (wordXNN_subop _ _ _)
theorem RowWord.ldI (nnn : Addr12) : RowWord.Statement (.ldI nnn) :=
  rowWord_of ⟨"LD_I_NNN", 0xA000#16, 0xF000#16⟩ (by decide) rfl (wordNNN_family _ _)
theorem RowWord.ldVxDt (x : Reg) : RowWord.Statement (.ldVxDt x) :=
  rowWord_of ⟨"LD_Vx_DT", 0xF007#16, 0xF0FF#16⟩ (by decide) rfl (wordXNN_subop _ _ _)
theorem RowWord.ldVxK (x : Reg) : RowWord.Statement (.ldVxK x) :=
  rowWord_of ⟨"LD_Vx_K", 0xF00A#16, 0xF0FF#16⟩ (by decide) rfl (wordXNN_subop _ _ _)
theorem RowWord.ldDtVx (x : Reg) : RowWord.Statement (.ldDtVx x) :=
  rowWord_of ⟨"LD_DT_Vx", 0xF015#16, 0xF0FF#16⟩ (by decide) rfl (wordXNN_subop _ _ _)
theorem RowWord.ldStVx (x : Reg) : RowWord.Statement (.ldStVx x) :=
  rowWord_of ⟨"LD_ST_Vx", 0xF018#16, 0xF0FF#16⟩ (by decide) rfl (wordXNN_subop _ _ _)
theorem RowWord.addI (x : Reg) : RowWord.Statement (.addI x) :=
  rowWord_of ⟨"ADD_I_Vx", 0xF01E#16, 0xF0FF#16⟩ (by decide) rfl (wordXNN_subop _ _ _)
theorem RowWord.ldF (x : Reg) : RowWord.Statement (.ldF x) :=
  rowWord_of ⟨"LD_F_Vx", 0xF029#16, 0xF0FF#16⟩ (by decide) rfl (wordXNN_subop _ _ _)
theorem RowWord.storeRegs (x : Reg) : RowWord.Statement (.storeRegs x) :=
  rowWord_of ⟨"LD__I__Vx", 0xF055#16, 0xF0FF#16⟩ (by decide) rfl (wordXNN_subop _ _ _)
theorem RowWord.loadRegs (x : Reg) : RowWord.Statement (.loadRegs x) :=
  rowWord_of ⟨"LD_Vx__I", 0xF065#16, 0xF0FF#16⟩ (by decide) rfl (wordXNN_subop _ _ _)
theorem RowWord.bcd (x : Reg) : RowWord.Statement (.bcd x) :=
  rowWord_of ⟨"BCD_Vx", 0xF033#16, 0xF0FF#16⟩ (by decide) rfl (wordXNN_subop _ _ _)

end Sys2Proof.Laws
end

