-- ==== Sys2Proof/Tests/Slice0.lean ====
section
/-! SUPPORT. The model's own tests. Expected values come from spec/95_test_vectors.md (the vector's id stands with each test)
or from the rules by hand; then, for each statement with hypotheses, a state and operands that meet them. -/

namespace Sys2Proof.Tests

open Sys2Proof.Machine Sys2Proof.Safety

/-! ### WellFormed: each check refuses an ill-formed operand, and admits the boundary -/

theorem test_regOk_refuses_16 : regOk 16 = false ∧ regOk 15 = true := by decide
theorem test_nibbleOk_refuses_16 : nibbleOk 16 = false ∧ nibbleOk 15 = true := by decide
theorem test_byteOk_refuses_256 : byteOk 256 = false ∧ byteOk 255 = true := by decide
theorem test_addrOk_refuses_4096 : addrOk 4096 = false ∧ addrOk 4095 = true := by decide
theorem imageOk_replicate (n : Nat) (b : Byte) : imageOk (List.replicate n b) = decide (n ≤ Config.maxImage) := by
  unfold imageOk; rw [List.length_replicate]
theorem test_imageOk_refuses_3585 :
    imageOk (List.replicate 3585 0) = false ∧ imageOk (List.replicate 3584 0) = true := by
  rw [imageOk_replicate, imageOk_replicate]; decide

/-! ### Decode: each constructor from a word written out from the patterns of spec/30_encoding.md R100 -/

theorem test_decode_family_0 :
    decodeWord? 0b0000000011100000#16 = some .cls ∧ decodeWord? 0b0000000011101110#16 = some .ret := by decide
theorem test_decode_addresses :
    decodeWord? 0b0001_0010_0011_0100#16 = some (.jp 0x234) ∧ decodeWord? 0b0010_0101_0110_0111#16 = some (.call 0x567) ∧
    decodeWord? 0b1010_0010_0000_0000#16 = some (.ldI 0x200) ∧ decodeWord? 0b1011_0010_0000_1010#16 = some (.jpV0 0x20A) := by
  decide
theorem test_decode_immediates :
    decodeWord? 0b0011_0001_0010_0011#16 = some (.seImm 1 0x23) ∧ decodeWord? 0b0100_0001_0010_0011#16 = some (.sneImm 1 0x23) ∧
    decodeWord? 0b0110_1010_0011_1100#16 = some (.ldImm 0xA 0x3C) ∧ decodeWord? 0b0111_0001_0010_0011#16 = some (.addImm 1 0x23) ∧
    decodeWord? 0b1100_0011_0000_1111#16 = some (.rnd 3 0x0F) := by decide
theorem test_decode_register_skips :
    decodeWord? 0b0101_0001_0010_1111#16 = some (.seReg 1 2) ∧ decodeWord? 0b1001_0001_0010_0101#16 = some (.sneReg 1 2) := by
  decide
theorem test_decode_family_8_low :
    decodeWord? 0b1000_0001_0010_0000#16 = some (.ldReg 1 2) ∧ decodeWord? 0b1000_0001_0010_0001#16 = some (.orReg 1 2) ∧
    decodeWord? 0b1000_0001_0010_0010#16 = some (.andReg 1 2) ∧ decodeWord? 0b1000_0001_0010_0011#16 = some (.xorReg 1 2) := by
  decide
theorem test_decode_family_8_high :
    decodeWord? 0b1000_0001_0010_0100#16 = some (.addReg 1 2) ∧ decodeWord? 0b1000_0001_0010_0101#16 = some (.subReg 1 2) ∧
    decodeWord? 0b1000_0001_0010_0110#16 = some (.shr 1 2) ∧ decodeWord? 0b1000_0001_0010_0111#16 = some (.subn 1 2) ∧
    decodeWord? 0b1000_0001_0010_1110#16 = some (.shl 1 2) := by decide
theorem test_decode_draw : decodeWord? 0b1101_0000_0001_0101#16 = some (.drw 0 1 5) := by decide
theorem test_decode_keys :
    decodeWord? 0b1110_0101_1001_1110#16 = some (.skp 5) ∧ decodeWord? 0b1110_0101_1010_0001#16 = some (.sknp 5) := by decide
theorem test_decode_family_F_timers :
    decodeWord? 0b1111_0100_0000_0111#16 = some (.ldVxDt 4) ∧ decodeWord? 0b1111_0101_0000_1010#16 = some (.ldVxK 5) ∧
    decodeWord? 0b1111_0011_0001_0101#16 = some (.ldDtVx 3) ∧ decodeWord? 0b1111_0011_0001_1000#16 = some (.ldStVx 3) := by
  decide
theorem test_decode_family_F_index :
    decodeWord? 0b1111_0010_0001_1110#16 = some (.addI 2) ∧ decodeWord? 0b1111_0000_0010_1001#16 = some (.ldF 0) ∧
    decodeWord? 0b1111_0001_0011_0011#16 = some (.bcd 1) ∧ decodeWord? 0b1111_0001_0101_0101#16 = some (.storeRegs 1) ∧
    decodeWord? 0b1111_0010_0110_0101#16 = some (.loadRegs 2) := by decide
/-- V-F3: words that are no instruction. -/
theorem test_unknown_words :
    ([0x0000, 0x00E1, 0x01E0, 0x0123, 0x8008, 0x812F, 0xE09F, 0xE000, 0xF000, 0xF1FF, 0xF075, 0xF085, 0xF030] : List Word).all
      (fun w => decodeWord? w == none) = true := by decide
theorem test_decode_truncated : (match decode [0x12] with | .error e => e | .ok _ => .unknown 0) = .truncated := by decide
theorem test_table_word : decodeTableWord 16 0xD015 = some (.drw 0 1 5) ∧ decodeTableWord 16 0x0000 = none := by decide

/-! ### Steps: one tick on a small state -/

/-- The state after reset with a word at `PC`, its next tick with the given inputs. -/
def start (w : Word) (key : Option Nibble := none) (rnd : Byte := 0) : State :=
  { State.reset.placeWord w with schedule := [.tick key rnd] }

/-- What a step leaves of a state, none where it leaves none. -/
def after {α : Type} (s : State) (f : State → α) : Option α :=
  match step s with
  | .next t => some (f t)
  | _ => none

/-- V-C1. -/
theorem test_cls_clears :
    after ((start 0x00E0).setFb (Framebuffer.blank.toggle 3 3)) (fun t => (t.fb.cell 3 3, t.redrawReq, t.pc)) =
      some (false, true, 0x202) := by decide
/-- V-A6. -/
theorem test_ret_resumes :
    after { start 0x00EE with sp := 1, stack := (State.reset.stack).set 0 0x204 } (fun t => (t.pc, t.sp)) = some (0x206, 0) := by
  decide
/-- V-A8. -/
theorem test_ret_ends :
    after ((start 0x00EE).setDt 5) (fun t => (t.status, t.cause, t.pc, t.dt)) = some (.ended, .none, 0x200, 5) := by decide
/-- V-A2. -/
theorem test_jp_odd : after (start 0x1201) (·.pc) = some 0x201 := by decide
/-- V-A4, at 0x200. -/
theorem test_call_stacks : after (start 0x2210) (fun t => (t.stack[0], t.sp, t.pc)) = some (0x200, 1, 0x210) := by decide
/-- V-A5. -/
theorem test_call_overflow :
    after { start 0x2210 with sp := 16, dt := 5 } (fun t => (t.status, t.cause, t.sp, t.pc, t.dt)) =
      some (.fault, .callStackOverflow, 16, 0x200, 5) := by decide
/-- V-A9, V-A10. -/
theorem test_seImm :
    after (start 0x3300) (·.pc) = some 0x204 ∧ after ((start 0x3300).setReg 3 1) (·.pc) = some 0x202 := by decide
/-- V-A11, V-A12. -/
theorem test_sneImm :
    after ((start 0x4006).setReg 0 5) (·.pc) = some 0x204 ∧ after ((start 0x4005).setReg 0 5) (·.pc) = some 0x202 := by decide
/-- V-A14, V-A15. -/
theorem test_seReg :
    after (((start 0x512F).setReg 1 7).setReg 2 7) (·.pc) = some 0x204 ∧
    after (((start 0x5120).setReg 1 7).setReg 2 8) (·.pc) = some 0x202 := by decide
/-- V-A17, V-A19. -/
theorem test_sneReg :
    after (((start 0x9120).setReg 1 7).setReg 2 8) (·.pc) = some 0x204 ∧ after ((start 0x9115).setReg 1 7) (·.pc) = some 0x202 := by
  decide
/-- V-A20, V-A21. -/
theorem test_jpV0 :
    after ((start 0xB20A).setReg 0 4) (·.pc) = some 0x20E ∧ after ((start 0xBFFF).setReg 0 0xFF) (·.pc) = some 0x10FE := by decide
/-- S4. -/
theorem test_ldImm : after (start 0x6A3C) (fun t => (t.reg 10, t.pc)) = some (0x3C, 0x202) := by decide
/-- V-B1, V-B3. -/
theorem test_addImm :
    after (((start 0x7003).setReg 0 0xFE)) (fun t => (t.reg 0, t.reg 15)) = some (0x01, 0) ∧
    after ((start 0x7F01).setReg 15 0xFF) (fun t => t.reg 15) = some 0 := by decide
/-- V-B31. -/
theorem test_ldReg : after ((start 0x8120).setReg 2 0x5A) (fun t => (t.reg 1, t.reg 2)) = some (0x5A, 0x5A) := by decide
/-- V-B27 to V-B29: `VF` is unchanged. -/
theorem test_logic :
    after ((((start 0x8121).setReg 1 0xF0).setReg 2 0x0F).setReg 15 1) (fun t => (t.reg 1, t.reg 15)) = some (0xFF, 1) ∧
    after ((((start 0x8122).setReg 1 0xF0).setReg 2 0x3C).setReg 15 1) (fun t => (t.reg 1, t.reg 15)) = some (0x30, 1) ∧
    after ((((start 0x8123).setReg 1 0xF0).setReg 2 0x3C).setReg 15 1) (fun t => (t.reg 1, t.reg 15)) = some (0xCC, 1) := by
  decide
/-- V-B4, V-B5. -/
theorem test_addReg_carry :
    after (((start 0x8124).setReg 1 0xC8).setReg 2 0x64) (fun t => (t.reg 1, t.reg 15)) = some (0x2C, 1) ∧
    after ((((start 0x8124).setReg 1 0x80).setReg 2 0x7F).setReg 15 1) (fun t => (t.reg 1, t.reg 15)) = some (0xFF, 0) := by decide
/-- V-B8, V-B9: `VF` as destination and as operand. -/
theorem test_addReg_vf :
    after (((start 0x8F14).setReg 15 0xF0).setReg 1 0x20) (fun t => (t.reg 15, t.reg 1)) = some (0x10, 0x20) ∧
    after (((start 0x81F4).setReg 1 5).setReg 15 1) (fun t => (t.reg 1, t.reg 15)) = some (6, 0) := by decide
/-- V-B10, V-B11. -/
theorem test_subReg :
    after (((start 0x8125).setReg 1 3).setReg 2 5) (fun t => (t.reg 1, t.reg 15)) = some (0xFE, 0) ∧
    after (((start 0x8125).setReg 1 5).setReg 2 5) (fun t => (t.reg 1, t.reg 15)) = some (0, 1) := by decide
/-- V-B18, V-B23. -/
theorem test_shr :
    after (((start 0x8126).setReg 1 0xAA).setReg 2 5) (fun t => (t.reg 1, t.reg 2, t.reg 15)) = some (2, 2, 1) ∧
    after ((start 0x81F6).setReg 15 7) (fun t => (t.reg 1, t.reg 15)) = some (3, 3) := by decide
/-- V-B15, V-B16. -/
theorem test_subn :
    after (((start 0x8127).setReg 1 3).setReg 2 5) (fun t => (t.reg 1, t.reg 2, t.reg 15)) = some (2, 5, 1) ∧
    after (((start 0x8127).setReg 1 5).setReg 2 3) (fun t => (t.reg 1, t.reg 15)) = some (0xFE, 0) := by decide
/-- V-B24, V-B26. -/
theorem test_shl :
    after (((start 0x812E).setReg 1 0x55).setReg 2 0x81) (fun t => (t.reg 1, t.reg 2, t.reg 15)) = some (2, 2, 1) ∧
    after ((start 0x811E).setReg 1 0x7F) (fun t => (t.reg 1, t.reg 15)) = some (0xFE, 0) := by decide
/-- V-B32. -/
theorem test_rnd : after (start 0xC30F none 0xA7) (fun t => t.reg 3) = some 7 := by decide
/-- S5, the runnable variant: the glyph of digit 0 from the font table. -/
theorem test_drw_glyph :
    after (start 0xD015) (fun t => (t.fb.cell 3 0, t.fb.cell 4 0, t.fb.cell 0 1, t.fb.cell 1 1, t.fb.cell 3 4, t.reg 15)) =
      some (true, false, true, false, true, 0) := by decide
/-- V-C4 and V-C8: wrapping at the corner, and one collision. -/
theorem test_drw_wrap_and_collision :
    after ({ start 0xD012 with i := 0x300, mem := [(0x200, 0xD0), (0x201, 0x12), (0x300, 0xFF), (0x301, 0x81)],
                               v := (State.reset.v.write 0 0x3C).write 1 0x1F })
      (fun t => (t.fb.cell 63 31, t.fb.cell 3 31, t.fb.cell 60 0, t.fb.cell 3 0, t.fb.cell 61 0)) =
        some (true, true, true, true, false) ∧
    after ({ start 0xD011 with i := 0x300, mem := [(0x200, 0xD0), (0x201, 0x11), (0x300, 0xF0)],
                               fb := (Framebuffer.blank.toggle 3 0).toggle 10 0 })
      (fun t => (t.fb.cell 2 0, t.fb.cell 3 0, t.fb.cell 10 0, t.reg 15)) = some (true, false, true, 1) := by decide
/-- V-C12, V-C13: the data bound, and none where no row is read. -/
theorem test_drw_bound :
    after (((start 0xD012).setI 0xFFF).setReg 15 3) (fun t => (t.cause, t.outcome, t.reg 15, t.redrawReq, t.pc)) =
      some (.dataAddressRange, some (.fault (.dataAddressRange 0x1000)), 3, false, 0x200) ∧
    after ((start 0xD010).setI 0x1000) (fun t => (t.status, t.redrawReq)) = some (.run, true) := by decide
/-- V-D1, V-D4 and V-D5. -/
theorem test_skp :
    after ((start 0xE59E (some 7)).setReg 5 7) (·.pc) = some 0x204 ∧
    after ((start 0xE59E (some 7)).setReg 5 0x17) (·.pc) = some 0x202 ∧ after (start 0xE59E none) (·.pc) = some 0x202 := by decide
/-- V-D7, V-D9. -/
theorem test_sknp :
    after ((start 0xE5A1 (some 7)).setReg 5 7) (·.pc) = some 0x202 ∧
    after ((start 0xE5A1 (some 0)).setReg 5 0x10) (·.pc) = some 0x204 := by decide
/-- V-E2. -/
theorem test_ldI : after (start 0xAFFF) (·.i) = some 0xFFF := by decide
/-- V-D12. -/
theorem test_ldVxDt : after ((start 0xF407).setDt 1) (fun t => (t.reg 4, t.dt)) = some (1, 0) := by decide
/-- V-D10: no timer step while waiting, and one with the key. -/
theorem test_ldVxK :
    after (((start 0xF50A none).setDt 9).setSt 1) (fun t => (t.outcome, t.pc, t.dt, t.st)) = some (some .waiting, 0x200, 9, 1) ∧
    after (((start 0xF50A (some 15)).setDt 9).setSt 1) (fun t => (t.reg 5, t.pc, t.dt, t.st, t.beepReq)) =
      some (15, 0x202, 8, 0, true) := by decide
/-- V-D15, V-D16. -/
theorem test_ldDtVx :
    after ((start 0xF315).setReg 3 2) (·.dt) = some 1 ∧ after ((start 0xF315).setDt 7) (·.dt) = some 0 := by decide
/-- V-D19, V-D20. -/
theorem test_ldStVx :
    after ((start 0xF318).setReg 3 1) (fun t => (t.st, t.beepReq)) = some (0, true) ∧
    after ((start 0xF318).setSt 5) (fun t => (t.st, t.beepReq)) = some (0, false) := by decide
/-- V-E4, V-E5. -/
theorem test_addI :
    after ((((start 0xF21E).setI 0xFFF).setReg 2 1).setReg 15 7) (fun t => (t.i, t.reg 15)) = some (0x1000, 7) ∧
    after (((start 0xF21E).setI 0xFFFF).setReg 2 1) (·.i) = some 0 := by decide
/-- V-E7, V-E9. -/
theorem test_ldF :
    after ((start 0xF029).setReg 0 0xF) (·.i) = some 0x4B ∧ after ((start 0xF029).setReg 0 0xFF) (·.i) = some 0x4FB := by decide
/-- V-E13, V-E22: the bytes stored, and a store over the instruction itself. -/
theorem test_storeRegs :
    after ((((start 0xF155).setI 0x400).setReg 0 0x20).setReg 1 2)
      (fun t => (memGet t.mem 0x400, memGet t.mem 0x401, memGet t.mem 0x402, t.i)) = some (0x20, 2, 0, 0x402) ∧
    after ((((start 0xF155).setI 0x200).setReg 0 0x12).setReg 1 0x34)
      (fun t => (memGet t.mem 0x200, memGet t.mem 0x201, t.i, t.pc)) = some (0x12, 0x34, 0x202, 0x202) := by decide
/-- V-E19, V-E20. -/
theorem test_loadRegs :
    after (start 0xF265) (fun t => (t.reg 0, t.reg 1, t.reg 2, t.reg 3, t.i)) = some (0xF0, 0x90, 0x90, 0, 3) ∧
    after (((start 0xF265).setI 0xFFE).setReg 2 0x99) (fun t => (t.cause, t.reg 0, t.reg 2, t.i)) =
      some (.dataAddressRange, 0, 0x99, 0xFFE) := by decide
/-- V-E11, V-E12. -/
theorem test_bcd :
    after (((start 0xF133).setI 0xFFD).setReg 1 123) (fun t => (memGet t.mem 0xFFD, memGet t.mem 0xFFE, memGet t.mem 0xFFF, t.i)) =
      some (1, 2, 3, 0xFFD) ∧
    after (((start 0xF133).setI 0xFFE).setReg 1 123) (fun t => (t.cause, memGet t.mem 0xFFE, t.pc)) =
      some (.dataAddressRange, 0, 0x200) := by decide
/-- V-F1, V-F2: the two faults before the dispatch. -/
theorem test_fetch_and_unknown_faults :
    after ((start 0x0000).setPc 0xFFF) (fun t => (t.status, t.cause, t.pc)) = some (.fault, .fetchAddressRange, 0xFFF) ∧
    after (start 0x0000) (fun t => (t.status, t.cause, t.pc)) = some (.fault, .unknownInstruction, 0x200) := by decide
/-- V-F4, V-F5: a stopped engine. -/
theorem test_stopped :
    after { start 0x7000 with status := .fault, cause := .fetchAddressRange, dt := 5 } (fun t => (t.outcome, t.dt, t.pc)) =
      some (some .stopped, 5, 0x200) ∧
    after { start 0x7000 with status := .fault, redrawReq := true, schedule := [.redrawAck] }
      (fun t => (t.redrawReq, t.status)) = some (false, .fault) := by decide
/-- V-F8: an image of odd length. -/
theorem test_reset_image :
    after { start 0x7000 with status := .ended, schedule := [.reset [0x60]] }
      (fun t => (memGet t.mem 0x200, memGet t.mem 0x201, memGet t.mem 0, t.status, t.pc)) = some (0x60, 0, 0xF0, .run, 0x200) := by
  decide
/-- V-F6: an image that is too long. -/
theorem test_reset_overlong : (State.reset.hostReset (List.replicate 3585 0xAB)).cause = .loadOverflow ∧
    (State.reset.hostReset (List.replicate 3585 0xAB)).mem = [] := by
  rw [hostReset_overflow (by rw [imageOk_replicate]; decide)]; exact ⟨rfl, rfl⟩

/-! ### Witnesses: for each statement with hypotheses, a state and operands that meet them -/

theorem witness_DecodeOfEncodeIsIdentity : (Instr.drw 15 15 15).wellFormed = true ∧ Instr.ret.wellFormed = true := by decide
theorem witness_EncodeOfDecodeIsCanonical :
    (decodeWord 0x6A3C = .ok (.ldImm 0xA 0x3C) ∧ opField 0x6A3C ≠ 5#4 ∧ opField 0x6A3C ≠ 9#4) ∧
    (decodeWord 0x512F = .ok (.seReg 1 2) ∧ opField 0x512F = 5#4) ∧
    (decodeWord 0x9121 = .ok (.sneReg 1 2) ∧ opField 0x9121 = 9#4) := ⟨⟨rfl, by decide⟩, ⟨rfl, rfl⟩, rfl, rfl⟩
theorem witness_StepRunsDecodedInstruction :
    (Runs (start 0x7001) (.addImm 0 1) ∧ ∃ t, exec (.addImm 0 1) (start 0x7001) = .next t ∧ t.outcome = some .completed) ∧
    (Runs (start 0x00EE) .ret ∧ ∃ t, exec .ret (start 0x00EE) = .next t ∧ t.outcome ≠ some .completed) :=
  ⟨⟨⟨rfl, rfl, by decide, rfl⟩, _, rfl, rfl⟩, ⟨rfl, rfl, by decide, rfl⟩, _, rfl, by decide⟩
theorem witness_FetchPastEndFaults :
    let s := (start 0x00E0).setPc 0xFFF
    s.status = .run ∧ nextIsTick s.schedule = true ∧ 0xFFE < s.pc.toNat := ⟨rfl, rfl, by decide⟩
theorem witness_UnknownWordFaults :
    let s := (start 0x00E0).setPc 0xFFE
    s.status = .run ∧ nextIsTick s.schedule = true ∧ s.pc.toNat ≤ 0xFFE ∧
    (0x0000 : Word) = bytesToWord (memGet s.mem s.pc.toNat) (memGet s.mem (s.pc.toNat + 1)) ∧
    decodeWord 0x0000 = .error (.unknown 0x0000) := ⟨rfl, rfl, by decide, by decide, rfl⟩
theorem witness_FaultingTick_fetch :
    let s := (start 0x00E0).setPc 0xFFF
    s.status = .run ∧ nextIsTick s.schedule = true ∧
    ∃ t, step s = .next t ∧ t.outcome = some (.fault (.fetchAddressRange 0xFFF)) := ⟨rfl, rfl, _, rfl, rfl⟩
theorem witness_FaultingTick_unknown :
    let s := start 0x0000
    s.status = .run ∧ nextIsTick s.schedule = true ∧
    ∃ t, step s = .next t ∧ t.outcome = some (.fault (.unknownInstruction 0x0000)) := ⟨rfl, rfl, _, rfl, rfl⟩
theorem witness_FaultingTick_call :
    let s := { start 0x2210 with sp := 16 }
    s.status = .run ∧ nextIsTick s.schedule = true ∧
    ∃ t, step s = .next t ∧ t.outcome = some (.fault (.callStackOverflow 0x200)) := ⟨rfl, rfl, _, rfl, rfl⟩
theorem witness_FaultingTick_data :
    let s := (start 0xF155).setI 0xFFF
    s.status = .run ∧ nextIsTick s.schedule = true ∧
    ∃ t, step s = .next t ∧ t.outcome = some (.fault (.dataAddressRange 0x1000)) := ⟨rfl, rfl, _, rfl, rfl⟩
theorem witness_StoppedTickChangesNothing :
    let s := { start 0x7001 with status := .fault, cause := .callStackOverflow }
    s.status ≠ .run ∧ nextIsTick s.schedule = true := ⟨by decide, rfl⟩
theorem witness_OnlyResetLeavesStop :
    let s := { start 0x7001 with status := .ended, redrawReq := true, schedule := [.redrawAck] }
    s.status ≠ .run ∧ (∃ t, step s = .next t) ∧ ∀ image rest, s.schedule ≠ .reset image :: rest :=
  ⟨by decide, ⟨_, rfl⟩, fun _ _ => by simp⟩
theorem witness_AcknowledgesClearOneFlag :
    { start 0x7001 with schedule := [.redrawAck] }.schedule = .redrawAck :: [] ∧
    { start 0x7001 with schedule := [.beepAck] }.schedule = .beepAck :: [] := ⟨rfl, rfl⟩
theorem witness_TimersCountInCompletedTicks :
    (Runs ((start 0x7001).setSt 1) (.addImm 0 1) ∧
      ∃ t, step ((start 0x7001).setSt 1) = .next t ∧ t.outcome = some .completed) ∧
    (Runs ((start 0xF50A none).setDt 9) (.ldVxK 5) ∧
      ∃ t, step ((start 0xF50A none).setDt 9) = .next t ∧ t.outcome ≠ some .completed) :=
  ⟨⟨⟨rfl, rfl, by decide, rfl⟩, _, rfl, rfl⟩, ⟨rfl, rfl, by decide, rfl⟩, _, rfl, by decide⟩
theorem witness_ReturnOnEmptyStackEnds : (start 0x00EE).sp.val = 0 ∧ Runs (start 0x00EE) .ret :=
  ⟨rfl, rfl, rfl, by decide, rfl⟩
theorem witness_ResetLoadsImage :
    (∃ s : State, s.schedule = .reset [] :: []) ∧
    ∃ s : State, s.schedule = .reset (List.replicate 3584 0x60) :: [] ∧ (List.replicate 3584 (0x60 : Byte)).length ≤ 3584 ∧
      (List.replicate 3584 (0x60 : Byte))[3583]? = some 0x60 :=
  ⟨⟨{ State.reset with schedule := [.reset []] }, rfl⟩,
   { State.reset with schedule := [.reset (List.replicate 3584 0x60)] }, rfl, by rw [List.length_replicate],
   by rw [List.getElem?_replicate]; rfl⟩
theorem witness_OverlongImageCopiesNothing :
    ∃ s : State, s.schedule = .reset (List.replicate 3585 0x60) :: [] ∧ 3584 < (List.replicate 3585 (0x60 : Byte)).length :=
  ⟨{ State.reset with schedule := [.reset (List.replicate 3585 0x60)] }, rfl, by rw [List.length_replicate]; decide⟩

/-! Control transfer. -/

theorem witness_CallStacksOwnAddress : { start 0x2210 with sp := 15 }.sp.val < 16 := by decide
theorem witness_CallOnFullStackFaults : { start 0x2210 with sp := 16 }.sp.val = 16 := rfl
theorem witness_ReturnResumesPastNewestEntry :
    { start 0x00EE with sp := 1 }.sp.val = (0 : Fin 16).val + 1 ∧ { start 0x00EE with sp := 16 }.sp.val = (15 : Fin 16).val + 1 :=
  ⟨rfl, rfl⟩
theorem witness_ReturnResumesAfterCall :
    let s := { start 0x2210 with sp := 15 }
    s.sp.val < 16 ∧ ∃ t u, exec (.call 0x210) s = .next t ∧ u = t.setReg 3 7 ∧ u.sp = t.sp ∧
      ∀ k : Fin 16, k.val < t.sp.val → u.stack[k.val] = t.stack[k.val] := ⟨by decide, _, _, rfl, rfl, rfl, fun _ _ => rfl⟩
theorem witness_SkipIfEqualImmediate :
    ((start 0x33FF).setReg 3 0xFF).reg 3 = 0xFF ∧ ((start 0x33FF).setReg 3 0xFE).reg 3 ≠ 0xFF := by decide
theorem witness_OtherSkips :
    (start 0x4005).reg 0 ≠ 5 ∧ ((start 0x4005).setReg 0 5).reg 0 = 5 ∧
    (((start 0x51F0).setReg 1 7).setReg 15 7).reg 1 = (((start 0x51F0).setReg 1 7).setReg 15 7).reg 15 ∧
    ((start 0x51F0).setReg 1 7).reg 1 ≠ ((start 0x51F0).setReg 1 7).reg 15 := by decide

/-! Registers and arithmetic. -/

theorem witness_CopyAndLogicWriteOnlyX :
    (∃ f : Bool → Bool → Bool, (Instr.ldReg 1 2 = .ldReg 1 2 ∧ ∀ a b, f a b = b)) ∧
    (∃ f : Bool → Bool → Bool, (Instr.orReg 1 2 = .orReg 1 2 ∧ ∀ a b, f a b = (a || b))) ∧
    (∃ f : Bool → Bool → Bool, (Instr.andReg 1 2 = .andReg 1 2 ∧ ∀ a b, f a b = (a && b))) ∧
    (∃ f : Bool → Bool → Bool, (Instr.xorReg 15 15 = .xorReg 15 15 ∧ ∀ a b, f a b = (a ^^ b))) :=
  ⟨⟨fun _ b => b, rfl, fun _ _ => rfl⟩, ⟨fun a b => a || b, rfl, fun _ _ => rfl⟩, ⟨fun a b => a && b, rfl, fun _ _ => rfl⟩,
   fun a b => a ^^ b, rfl, fun _ _ => rfl⟩
/-- `AddSetsSumAndCarry`, `SubtractsSetDifferenceAndNoBorrow`, `ShiftsWriteBothRegisters`: the flag's clauses, with `x` and
`y` at 14 and 0, and both sides of each bound. -/
theorem witness_FlagClauses :
    (14 : Reg) ≠ flagReg ∧ (0 : Reg) ≠ flagReg ∧
    255 < ((start 0x8E04).setReg 14 0xFF |>.setReg 0 1 |>.reg 14).toNat + 1 ∧
    ¬ 255 < ((start 0x8E04).setReg 14 0xFF |>.reg 14).toNat + ((start 0x8E04).reg 0).toNat ∧
    ((start 0x8E05).setReg 0 5 |>.reg 0).toNat ≤ ((start 0x8E05).setReg 14 5 |>.reg 14).toNat := by decide
theorem witness_RandomIsMaskedInput : (start 0xC30F none 0xA7).schedule = .tick none 0xA7 :: [] := rfl

/-! Display. -/

theorem witness_DrawTogglesExactlySpriteBits :
    (0 : Nibble).toNat = 0 ∧ ((start 0xD01F).setI 0xFF1).i.toNat + (15 : Nibble).toNat ≤ 4096 := by decide
/-- A sprite of one pixel at (0, 0), on a blank cell and on one of 1. -/
theorem witness_DrawTogglesExactlySpriteBits_flag :
    (∃ cx cy, spriteBit [(0x300, 0x80)] 0x300 0 0 1 cx cy = true ∧ (Framebuffer.blank.toggle 0 0).cell cx cy = true) ∧
    (∀ cx cy, spriteBit [(0x300, 0x80)] 0x300 0 0 1 cx cy = true → Framebuffer.blank.cell cx cy = false) :=
  ⟨⟨0, 0, by decide, by decide⟩, fun cx cy _ => by simp [Framebuffer.cell, Framebuffer.blank]⟩
theorem witness_DoubleDrawRestores :
    let s := start 0xD015
    s.i.toNat + (5 : Nibble).toNat ≤ 4096 ∧ ∃ t u, exec (.drw 0 1 5) s = .next t ∧ t.reg 0 = s.reg 0 ∧ t.reg 1 = s.reg 1 ∧
      exec (.drw 0 1 5) t = .next u := ⟨by decide, _, _, rfl, by decide, by decide, rfl⟩
theorem witness_DrawEdgesAgreeInWindow : 56 ≤ 56 ∧ 17 + (List.replicate 15 (0xFF : Byte)).length ≤ 32 := by decide

/-! Keypad and timers. -/

theorem witness_KeySkips :
    (start 0xE59E (some 15)).schedule = .tick (some 15) 0 :: [] ∧
    (∃ k, ((start 0xE59E (some 15)).setReg 5 15).key = some k ∧ k.toNat = (((start 0xE59E (some 15)).setReg 5 15).reg 5).toNat) ∧
    (∀ k, ((start 0xE59E (some 0)).setReg 5 0x10).key = some k → k.toNat ≠ (((start 0xE59E (some 0)).setReg 5 0x10).reg 5).toNat) ∧
    (∀ k, (start 0xE59E none).key = some k → k.toNat ≠ ((start 0xE59E none).reg 5).toNat) :=
  ⟨rfl, ⟨15, rfl, by decide⟩, fun k h => by cases Option.some.inj h; decide, fun k h => nomatch h⟩
theorem witness_KeyWaitTakesKey : (start 0xF50A (some 15)).key = some 15 := rfl
theorem witness_KeyWaitIsNullCycle :
    let s := { start 0xF50A with schedule := [.tick none 0, .tick (some 3) 0] }
    s.key = none ∧ Runs s (.ldVxK 5) ∧ nextIsTick s.schedule.tail = true := ⟨rfl, ⟨rfl, rfl, by decide, rfl⟩, rfl⟩
theorem witness_ReadDelayTimer : Runs ((start 0xF407).setDt 0) (.ldVxDt 4) ∧ Runs ((start 0xF407).setDt 1) (.ldVxDt 4) :=
  ⟨⟨rfl, rfl, by decide, rfl⟩, rfl, rfl, by decide, rfl⟩

/-! Index register and memory. -/

theorem witness_BlocksInRange :
    ((start 0xFF55).setI 0xFF0).mem.wf ∧ ((start 0xFF55).setI 0xFF0).i.toNat + (15 : Reg).toNat ≤ 0xFFF ∧
    ((start 0xF033).setI 0xFFD).mem.wf ∧ ((start 0xF033).setI 0xFFD).i.toNat + 2 ≤ 0xFFF := by decide
theorem witness_DataPastEndFaults :
    (0 < accessCount (.drw 0 1 2) ∧ 0xFFF < (0xFFF : Word).toNat + accessCount (.drw 0 1 2) - 1) ∧
    (0 < accessCount (.bcd 1) ∧ 0xFFF < (0xFFE : Word).toNat + accessCount (.bcd 1) - 1) ∧
    (0 < accessCount (.storeRegs 0) ∧ 0xFFF < (0x1000 : Word).toNat + accessCount (.storeRegs 0) - 1) ∧
    (0 < accessCount (.loadRegs 15) ∧ 0xFFF < (0xFF1 : Word).toNat + accessCount (.loadRegs 15) - 1) := by decide
theorem witness_StoreIsSeenByNextFetch :
    let s := (start 0xF155).setI 0xFFE
    s.mem.wf ∧ Runs s (.storeRegs 1) ∧ s.i.toNat + (1 : Reg).toNat ≤ 0xFFF ∧ (∃ t, step s = .next t) ∧
    (1 : Reg).toNat = (0 : Reg).toNat + 1 ∧ (0xFFE : Word).toNat = s.i.toNat + (0 : Reg).toNat :=
  ⟨by decide, ⟨rfl, rfl, by decide, rfl⟩, by decide, ⟨_, rfl⟩, by decide, by decide⟩

/-! Rules about the whole machine, and the invariants. -/

theorem witness_RegistersWrittenOnlyAsNamed :
    (∃ t, exec (.addReg 1 2) (start 0x8124) = .next t) ∧ namesDest (.addReg 1 2) 14 = false ∧
    writesFlag (.addReg 1 2) = true ∧ (14 : Reg) ≠ flagReg ∧
    (∃ t, exec (.orReg 1 2) (start 0x8121) = .next t) ∧ namesDest (.orReg 1 2) 15 = false ∧ writesFlag (.orReg 1 2) = false :=
  ⟨⟨_, rfl⟩, by decide, rfl, by decide, ⟨_, rfl⟩, by decide, rfl⟩
theorem witness_PiecesWrittenOnlyByTheirInstructions :
    (∃ t, exec (.addImm 0 1) (start 0x7001) = .next t ∧ writesMemory (.addImm 0 1) = false ∧ writesIndex (.addImm 0 1) = false ∧
      usesStack (.addImm 0 1) = false ∧ (∀ x, Instr.addImm 0 1 ≠ .ldDtVx x) ∧ (∀ x, Instr.addImm 0 1 ≠ .ldStVx x) ∧
      t.outcome ≠ some .ended ∧ (∀ e, t.outcome ≠ some (.fault e)) ∧ writesDisplay (.addImm 0 1) = false) ∧
    (∃ t, exec .cls (start 0x00E0) = .next t ∧ writesDisplay .cls = true ∧ t.outcome = some .completed) ∧
    ∃ t, exec .ret (start 0x00EE) = .next t ∧ t.outcome = some .ended ∧ ∀ e, t.outcome ≠ some (.fault e) :=
  ⟨⟨_, rfl, rfl, rfl, rfl, nofun, nofun, by decide, nofun, rfl⟩, ⟨_, rfl, rfl, rfl⟩, _, rfl, rfl, nofun⟩
theorem witness_PcMovesAsCompleted :
    (∃ t, exec (.seImm 0 0) (start 0x3000) = .next t ∧ t.outcome = some .completed ∧ jumps (.seImm 0 0) = false) ∧
    ∃ t, exec (.ldVxK 5) (start 0xF50A none) = .next t ∧ t.outcome ≠ some .completed :=
  ⟨⟨_, rfl, rfl, rfl⟩, _, rfl, by decide⟩
theorem witness_InputsReadOnlyByTheirInstructions :
    (∃ t, exec (.addImm 0 1) (start 0x7001 (some 3)) = .next t) ∧ readsKey (.addImm 0 1) = false ∧ readsRnd (.addImm 0 1) = false ∧
    (∃ t, exec (.skp 5) (start 0xE59E (some 3)) = .next t) ∧
    State.key { start 0xE59E (some 3) with schedule := [.tick (some 3) 9], ticks := 7 } = (start 0xE59E (some 3)).key :=
  ⟨⟨_, rfl⟩, rfl, rfl, ⟨_, rfl⟩, rfl⟩
theorem witness_OutputsAreNotRead : ∃ t, exec (.bcd 1) (start 0xF133) = .next t := ⟨_, rfl⟩
theorem witness_FlagOrdersAgreeOffVF : (14 : Reg) ≠ flagReg ∧ (0 : Reg) ≠ flagReg := by decide
theorem witness_CanonicalMemoriesAreEqual :
    let m := memSet (memSet [] 0xFFF 1) 0 0
    let m' := memSet (memSet [] 0 0) 0xFFF 1
    m.wf ∧ m'.wf ∧ ∀ a, a < 4096 → memGet m a = memGet m' a := ⟨by decide, by decide, fun _ _ => rfl⟩
theorem witness_StepKeepsInvariant :
    (Inv (start 0xF155) ∧ ∃ t, step (start 0xF155) = .next t) ∧
    Inv { start 0x00EE with status := .ended } ∧ Inv { start 0x0000 with status := .fault, cause := .unknownInstruction } :=
  ⟨⟨⟨by decide, by decide, by decide⟩, _, rfl⟩, ⟨by decide, by decide, by decide⟩, by decide, by decide, by decide⟩
theorem witness_StepKeepsPcBounded :
    let s := { start 0x00EE with sp := 1, stack := State.reset.stack.set 0 0xFFE }
    (PcBounded s ∧ ∃ t, step s = .next t) ∧ PcBounded (s.setPc 0x10FE) :=
  ⟨⟨⟨by decide, by decide⟩, _, rfl⟩, by decide, by decide⟩

end Sys2Proof.Tests
end

section
/-! SUPPORT. What a dispatch can do, said once: it stops short of its writes in one of three ways, or performs them and
completes. Every rule about all instructions is derived from this. -/

namespace Sys2Proof.Machine

/-- The ways a dispatch ends without its writes (spec/60_exceptions.md R221). -/
inductive Halt where
  | waiting
  | ended
  | fault (e : Exc)

/-- The state such a dispatch leaves. -/
def State.halted (s : State) : Halt → State
  | .waiting => s.waiting
  | .ended => s.programEnd
  | .fault e => s.raised e

/-- Why the dispatch of an instruction stops short, none where it completes (R226, R227, R232; the null cycle of
spec/43_keypad_timers.md R184). -/
def haltOf (i : Instr) (s : State) : Option Halt :=
  match i with
  | .ret => if s.sp.val = 0 then some .ended else none
  | .call _ => if s.sp.val < 16 then none else some (.fault (.callStackOverflow s.pc))
  | .ldVxK _ => if s.key = none then some .waiting else none
  | i => (dataFault dataOob s.i (Safety.accessCount i)).map .fault

/-- `CALL`'s stacking of its own address; `State.push` where an entry is free (`pushPc_eq_push`). -/
def State.pushPc (s : State) : State := { s with stack := s.stack.setIfInBounds s.sp.val s.pc, sp := s.sp + 1 }

/-- The writes of an instruction where its dispatch completes. -/
def effect (i : Instr) (s : State) : State :=
  match i with
  | .cls => (s.setFb Framebuffer.blank).next
  | .ret => s.pop.setPc (s.stack[s.sp.val - 1] + 2)
  | .jp nnn => s.setPc (zextAddr nnn)
  | .call nnn => s.pushPc.setPc (zextAddr nnn)
  | .seImm x nn => s.skipIf (s.reg x == nn)
  | .sneImm x nn => s.skipIf (s.reg x != nn)
  | .seReg x y => s.skipIf (s.reg x == s.reg y)
  | .sneReg x y => s.skipIf (s.reg x != s.reg y)
  | .ldImm x nn => (s.setReg x nn).next
  | .addImm x nn => (s.setReg x (s.reg x + nn)).next
  | .ldReg x y => (s.setReg x (s.reg y)).next
  | .orReg x y => (s.setReg x (s.reg x ||| s.reg y)).next
  | .andReg x y => (s.setReg x (s.reg x &&& s.reg y)).next
  | .xorReg x y => (s.setReg x (s.reg x ^^^ s.reg y)).next
  | .addReg x y =>
    (s.setV (writeFlagged flagOrder s.v x (s.reg x + s.reg y) (carryFlag (s.reg x) (s.reg y)))).next
  | .subReg x y =>
    (s.setV (writeFlagged flagOrder s.v x (s.reg x - s.reg y) (noBorrowFlag (s.reg x) (s.reg y)))).next
  | .shr x y =>
    (s.setV (writeShifted flagOrder s.v x y
      (shiftOperand shiftSrc s.v x y >>> 1) (shrFlag (shiftOperand shiftSrc s.v x y)))).next
  | .subn x y =>
    (s.setV (writeFlagged flagOrder s.v x (s.reg y - s.reg x) (noBorrowFlag (s.reg y) (s.reg x)))).next
  | .shl x y =>
    (s.setV (writeShifted flagOrder s.v x y
      (shiftOperand shiftSrc s.v x y <<< 1) (shlFlag (shiftOperand shiftSrc s.v x y)))).next
  | .jpV0 nnn => s.setPc (zextByte (s.reg 0) + zextAddr nnn)
  | .rnd x nn => (s.setReg x (s.rnd &&& nn)).next
  | .drw x y n =>
    ((s.setFb (drawn dataOob drawEdge x y n s).fb).setReg flagReg
      (collisionFlag (drawn dataOob drawEdge x y n s).hit)).next
  | .skp x => s.skipIf (pressed s.key (s.reg x))
  | .sknp x => s.skipIf (!pressed s.key (s.reg x))
  | .ldI nnn => (s.setI (zextAddr nnn)).next
  | .ldVxDt x => (s.setReg x s.dt).next
  | .ldVxK x => (s.setReg x (zextKey (s.key.getD 0))).next
  | .ldDtVx x => (s.setDt (s.reg x)).next
  | .ldStVx x => (s.setSt (s.reg x)).next
  | .addI x => (s.setI (s.i + zextByte (s.reg x))).next
  | .ldF x => (s.setI (glyphAddr (s.reg x))).next
  | .storeRegs x =>
    ((s.setMem (storeBytes dataOob s.i 0 (regBytes s.v 0 (regCount x)) s.mem)).setI
      (s.i + BitVec.ofNat 16 (regCount x))).next
  | .loadRegs x =>
    ((s.setV (writeRegs 0 (loadBytes dataOob s.i s.mem 0 (regCount x)) s.v)).setI
      (s.i + BitVec.ofNat 16 (regCount x))).next
  | .bcd x =>
    (s.setMem (storeBytes dataOob s.i 0
      [bcdHundreds (s.reg x), bcdTens (s.reg x), bcdUnits (s.reg x)] s.mem)).next

/-- The state a dispatch leaves. -/
def dispatched (i : Instr) (s : State) : State :=
  (haltOf i s).elim (effect i s).completed s.halted

theorem dispatched_of_halt {i : Instr} {s : State} {k : Halt} (h : haltOf i s = some k) :
    dispatched i s = s.halted k := by
  simp [dispatched, h]

theorem dispatched_of_no_halt {i : Instr} {s : State} (h : haltOf i s = none) :
    dispatched i s = (effect i s).completed := by
  simp [dispatched, h]

/-- Where an entry is free, stacking the own address is the model's push. -/
theorem pushPc_eq_push {s : State} (h : s.sp.val < 16) : s.pushPc = s.push s.pc h := by
  have hsp : s.sp + 1 = ⟨s.sp.val + 1, by omega⟩ := by
    apply Fin.ext
    simp only [Fin.val_add, Fin.val_one]
    omega
  simp [State.pushPc, State.push, hsp, Vector.setIfInBounds, Vector.set, Array.setIfInBounds, h]

/-- A checked access is a dispatch that halts in its fault or completes. -/
theorem completeAccess_eq (n : Nat) (s t : State) :
    completeAccess dataOob n s t = .next (((dataFault dataOob s.i n).map Halt.fault).elim t.completed s.halted) := by
  unfold completeAccess
  cases dataFault dataOob s.i n <;> rfl

/-- Every dispatch answers the state that `haltOf` and `effect` give. -/
theorem exec_eq (i : Instr) (s : State) : exec i s = .next (dispatched i s) := by
  cases i with
  | ret =>
    by_cases h : s.sp.val = 0
    · simp [exec, execRet, dispatched, haltOf, State.halted, h]
    · have h' : 0 < s.sp.val := by omega
      simp [exec, execRet, dispatched, haltOf, effect, complete, State.top, h, h']
  | call nnn =>
    by_cases h : s.sp.val < 16
    · simp [exec, execCall, dispatched, haltOf, effect, complete, pushPc_eq_push, h]
    · simp [exec, execCall, dispatched, haltOf, State.halted, raise, h]
  | ldVxK x =>
    cases h : s.key with
    | none => simp [exec, execLdVxK, keyTaken, dispatched, haltOf, State.halted, h]
    | some k => simp [exec, execLdVxK, keyTaken, dispatched, haltOf, effect, h]
  | drw x y n => exact completeAccess_eq ..
  | storeRegs x => exact completeAccess_eq ..
  | loadRegs x => exact completeAccess_eq ..
  | bcd x => exact completeAccess_eq ..
  | _ => rfl

/-- What a dispatch can do: stop short in one of three ways, each of its own instruction or fault, or complete. -/
theorem exec_cases {i : Instr} {s t : State} (h : exec i s = .next t) :
    (haltOf i s = none ∧ t = (effect i s).completed) ∨ ∃ k, haltOf i s = some k ∧ t = s.halted k := by
  rw [exec_eq] at h
  cases hk : haltOf i s with
  | none => exact .inl ⟨rfl, by simpa [dispatched_of_no_halt hk, eq_comm] using h⟩
  | some k => exact .inr ⟨k, rfl, by simpa [dispatched_of_halt hk, eq_comm] using h⟩

/-- A dispatch ends the program only by `RET` on an empty stack (spec/60_exceptions.md R232). -/
theorem sp_of_ended {i : Instr} {s : State} (h : haltOf i s = some .ended) : s.sp = 0 := by
  cases i with
  | ret =>
    have : s.sp.val = 0 := by simpa [haltOf] using h
    exact Fin.ext this
  | _ => simp [haltOf] at h

end Sys2Proof.Machine
end

section
/-! SUPPORT. The frame of a completed dispatch: which instructions write each piece of state (spec/10_state.md R20). -/

namespace Sys2Proof.Machine

open Sys2Proof.Safety

variable {i : Instr} {s : State}

/-! ### The pieces that no instruction writes -/

@[simp] theorem effect_status : (effect i s).status = s.status := by cases i <;> rfl
@[simp] theorem effect_cause : (effect i s).cause = s.cause := by cases i <;> rfl
@[simp] theorem effect_beepReq : (effect i s).beepReq = s.beepReq := by cases i <;> rfl
@[simp] theorem effect_schedule : (effect i s).schedule = s.schedule := by cases i <;> rfl
@[simp] theorem effect_ticks : (effect i s).ticks = s.ticks := by cases i <;> rfl

/-! ### The pieces that some instructions write -/

theorem effect_mem (h : writesMemory i = false) : (effect i s).mem = s.mem := by
  cases i with
  | storeRegs | bcd => cases h
  | _ => rfl

theorem effect_i (h : writesIndex i = false) : (effect i s).i = s.i := by
  cases i with
  | ldI | addI | ldF | storeRegs | loadRegs => cases h
  | _ => rfl

theorem effect_stack (h : usesStack i = false) : (effect i s).stack = s.stack := by
  cases i with
  | call | ret => cases h
  | _ => rfl

theorem effect_sp (h : usesStack i = false) : (effect i s).sp = s.sp := by
  cases i with
  | call | ret => cases h
  | _ => rfl

theorem effect_dt (h : ∀ x, i ≠ .ldDtVx x) : (effect i s).dt = s.dt := by
  cases i with
  | ldDtVx x => exact absurd rfl (h x)
  | _ => rfl

theorem effect_st (h : ∀ x, i ≠ .ldStVx x) : (effect i s).st = s.st := by
  cases i with
  | ldStVx x => exact absurd rfl (h x)
  | _ => rfl

theorem effect_fb (h : writesDisplay i = false) : (effect i s).fb = s.fb := by
  cases i with
  | cls | drw => cases h
  | _ => rfl

theorem effect_redrawReq_same (h : writesDisplay i = false) : (effect i s).redrawReq = s.redrawReq := by
  cases i with
  | cls | drw => cases h
  | _ => rfl

theorem effect_redrawReq_set (h : writesDisplay i = true) : (effect i s).redrawReq = true := by
  cases i with
  | cls | drw => rfl
  | _ => cases h

/-- A skip moves `PC` by 4 or by 2 (spec/40_control_transfer.md R120). -/
theorem skipIf_pc (c : Bool) : (s.skipIf c).pc = s.pc + 2 ∨ (s.skipIf c).pc = s.pc + 4 := by
  cases c <;> simp

/-- Outside jumps, calls and returns `PC` goes on by 2, or by 4 in a skip (spec/10_state.md R25). -/
theorem effect_pc (h : jumps i = false) :
    (effect i s).pc = s.pc + 2 ∨ (skips i = true ∧ (effect i s).pc = s.pc + 4) := by
  cases i with
  | jp | call | jpV0 | ret => cases h
  | seImm | sneImm | seReg | sneReg | skp | sknp => exact (skipIf_pc _).imp_right fun e => ⟨rfl, e⟩
  | _ => exact .inl rfl

/-! ### The registers (spec/10_state.md R22, R23) -/

/-- A write of one register that is not `r`. -/
theorem reg_setReg_of_beq {x r : Reg} {b : Byte} (h : (x == r) = false) : (s.setReg x b).reg r = s.reg r := by
  have hx : r ≠ x := fun e => by simp [e] at h
  simp [hx]

/-- A flagged result leaves every register but its destination and `VF`. -/
theorem read_writeFlagged_of_beq {v : RegFile} {x r : Reg} {b f : Byte} (h : (x == r) = false) (hf : r ≠ flagReg) :
    (writeFlagged flagOrder v x b f).read r = v.read r := by
  have hx : r ≠ x := fun e => by simp [e] at h
  simp [flagOrder, read_writeFlagged_first, hx, hf]

/-- A shifted result leaves every register but its two destinations and `VF`. -/
theorem read_writeShifted_of_beq {v : RegFile} {x y r : Reg} {b f : Byte} (h : (x == r || y == r) = false)
    (hf : r ≠ flagReg) : (writeShifted flagOrder v x y b f).read r = v.read r := by
  have hxy : r ≠ x ∧ r ≠ y := ⟨fun e => by simp [e] at h, fun e => by simp [e] at h⟩
  simp [flagOrder, read_writeShifted_first, hxy, hf]

/-- A block load into `V0` to `Vx` leaves the registers above `x`. -/
theorem read_loadRegs_above {x r : Reg} {bs : List Byte} {v : RegFile} (hl : bs.length = regCount x)
    (h : decide (r.toNat ≤ x.toNat) = false) : (writeRegs 0 bs v).read r = v.read r := by
  have hx : x.toNat < r.toNat := by simpa using h
  have hr : r.toNat < 16 := r.isLt
  simp only [regCount] at hl
  have hout : bs[r.toNat]? = none := List.getElem?_eq_none (by omega)
  simp [read_writeRegs 0 bs v (by omega) r, hout]

/-- A completed dispatch leaves every register it does not name, but `VF` where it is a flag writer. -/
theorem effect_reg {r : Reg} (hn : namesDest i r = false) (hf : writesFlag i = true → r ≠ flagReg) :
    (effect i s).reg r = s.reg r := by
  cases i with
  | ldImm | addImm | ldReg | orReg | andReg | xorReg | rnd | ldVxDt | ldVxK => exact reg_setReg_of_beq hn
  | addReg | subReg | subn => exact read_writeFlagged_of_beq hn (hf rfl)
  | shr | shl => exact read_writeShifted_of_beq hn (hf rfl)
  | drw x y n => simp [effect, hf rfl]
  | loadRegs x => exact read_loadRegs_above (length_loadBytes ..) hn
  | _ => rfl

/-! ### What stopping short leaves -/

@[simp] theorem halted_mem (k : Halt) : (s.halted k).mem = s.mem := by cases k <;> rfl
@[simp] theorem halted_v (k : Halt) : (s.halted k).v = s.v := by cases k <;> rfl
@[simp] theorem halted_i (k : Halt) : (s.halted k).i = s.i := by cases k <;> rfl
@[simp] theorem halted_pc (k : Halt) : (s.halted k).pc = s.pc := by cases k <;> rfl
@[simp] theorem halted_stack (k : Halt) : (s.halted k).stack = s.stack := by cases k <;> rfl
@[simp] theorem halted_sp (k : Halt) : (s.halted k).sp = s.sp := by cases k <;> rfl
@[simp] theorem halted_dt (k : Halt) : (s.halted k).dt = s.dt := by cases k <;> rfl
@[simp] theorem halted_st (k : Halt) : (s.halted k).st = s.st := by cases k <;> rfl
@[simp] theorem halted_fb (k : Halt) : (s.halted k).fb = s.fb := by cases k <;> rfl
@[simp] theorem halted_redrawReq (k : Halt) : (s.halted k).redrawReq = s.redrawReq := by cases k <;> rfl
@[simp] theorem halted_beepReq (k : Halt) : (s.halted k).beepReq = s.beepReq := by cases k <;> rfl
@[simp] theorem halted_schedule (k : Halt) : (s.halted k).schedule = s.schedule := by cases k <;> rfl
@[simp] theorem halted_ticks (k : Halt) : (s.halted k).ticks = s.ticks := by cases k <;> rfl

/-- A dispatch that stops short is not completed. -/
theorem halted_not_completed (k : Halt) : (s.halted k).outcome ≠ some .completed := by
  cases k <;> simp [State.halted]

/-- Stopping short moves `status` only in a program end or a fault. -/
theorem halted_status {k : Halt} (he : (s.halted k).outcome ≠ some .ended)
    (hf : ∀ e, (s.halted k).outcome ≠ some (.fault e)) : (s.halted k).status = s.status := by
  cases k with
  | waiting => rfl
  | ended => exact absurd rfl he
  | fault e => exact absurd rfl (hf e)

/-- Stopping short moves `cause` only in a fault. -/
theorem halted_cause {k : Halt} (hf : ∀ e, (s.halted k).outcome ≠ some (.fault e)) :
    (s.halted k).cause = s.cause := by
  cases k with
  | waiting | ended => rfl
  | fault e => exact absurd rfl (hf e)

end Sys2Proof.Machine
end

section
/-! The rules about all instructions (spec/10_state.md). -/

namespace Sys2Proof.Machine

open Sys2Proof.Safety

/-- Settles O51: a completed dispatch by its frame of registers; one that stops short writes none. -/
theorem registersWrittenOnlyAsNamed : Obligations.RegistersWrittenOnlyAsNamed := by
  intro i s t r h hn hf
  rcases exec_cases h with ⟨-, rfl⟩ | ⟨k, -, rfl⟩
  · exact effect_reg hn hf
  · simp [reg_eq]

/-- Settles O52, piece by piece from the frame of `effect`; a dispatch that stops short writes `status` and `cause` at
most. -/
theorem piecesWrittenOnlyByTheirInstructions : Obligations.PiecesWrittenOnlyByTheirInstructions := by
  intro i s t h
  rcases exec_cases h with ⟨-, rfl⟩ | ⟨k, -, rfl⟩
  · refine ⟨fun hm a => ?_, effect_i, fun hs => ⟨fun k => ?_, effect_sp hs⟩, effect_dt, effect_st,
      fun _ _ => effect_status, fun _ => effect_cause, fun hd => ⟨fun x y => ?_, effect_redrawReq_same hd⟩,
      fun hd _ => effect_redrawReq_set hd, effect_beepReq, effect_schedule, effect_ticks⟩
    · simp [effect_mem hm]
    · simp [effect_stack hs]
    · simp [effect_fb hd]
  · refine ⟨fun _ a => ?_, fun _ => halted_i k, fun _ => ⟨fun j => ?_, halted_sp k⟩, fun _ => halted_dt k,
      fun _ => halted_st k, halted_status, halted_cause, fun _ => ⟨fun x y => ?_, halted_redrawReq k⟩,
      fun _ hc => absurd hc (halted_not_completed k), halted_beepReq k, halted_schedule k, halted_ticks k⟩
    · rw [halted_mem]
    · simp only [halted_stack]
    · rw [halted_fb]

/-- Settles O53. -/
theorem pcMovesAsCompleted : Obligations.PcMovesAsCompleted := by
  intro i s t h
  rcases exec_cases h with ⟨-, rfl⟩ | ⟨k, -, rfl⟩
  · exact ⟨fun _ hj => effect_pc hj, fun hc => absurd rfl hc⟩
  · exact ⟨fun hc => absurd hc (halted_not_completed k), fun _ => halted_pc k⟩

/-! ### What a dispatch does not read -/

/-- Whether a dispatch stops short depends on the inputs only where it reads the key. -/
theorem haltOf_withInputs {i : Instr} {s : State} {moves : List HostMove} {n : Nat}
    (hk : readsKey i = true → State.key { s with schedule := moves, ticks := n } = s.key) :
    haltOf i { s with schedule := moves, ticks := n } = haltOf i s := by
  cases i with
  | ldVxK x => simp only [haltOf, hk rfl]
  | _ => rfl

/-- The writes of a dispatch depend on the inputs only where it reads them. -/
theorem effect_withInputs {i : Instr} {s : State} {moves : List HostMove} {n : Nat}
    (hk : readsKey i = true → State.key { s with schedule := moves, ticks := n } = s.key)
    (hr : readsRnd i = true → State.rnd { s with schedule := moves, ticks := n } = s.rnd) :
    effect i { s with schedule := moves, ticks := n } = { effect i s with schedule := moves, ticks := n } := by
  cases i with
  | skp | sknp | ldVxK => simp only [effect, hk rfl]; rfl
  | rnd x nn => simp only [effect, hr rfl]; rfl
  | _ => rfl

/-- Settles O54: neither the way a dispatch ends nor its writes depend on an input it does not read. -/
theorem inputsReadOnlyByTheirInstructions : Obligations.InputsReadOnlyByTheirInstructions := by
  intro i s t moves n h hk hr
  rw [exec_eq, Host.Outcome.next.injEq]
  rcases exec_cases h with ⟨hn, rfl⟩ | ⟨k, hs, rfl⟩
  · rw [dispatched_of_no_halt (haltOf_withInputs hk ▸ hn), effect_withInputs hk hr]
    rfl
  · rw [dispatched_of_halt (haltOf_withInputs hk ▸ hs)]
    cases k <;> rfl

/-- Two states agree on everything a program can see (all but the outputs of R32, R34 to R36 and the inputs). -/
structure SameVisible (s t : State) : Prop where
  mem : t.mem = s.mem
  v : t.v = s.v
  i : t.i = s.i
  pc : t.pc = s.pc
  stack : t.stack = s.stack
  sp : t.sp = s.sp
  dt : t.dt = s.dt
  fb : t.fb = s.fb

section
variable (i : Instr) (s : State) (st : Byte) (rd bp : Bool) (su : Status) (ca : Cause) (o : Option TickOutcome)

/-- The outputs do not decide whether a dispatch stops short. -/
theorem haltOf_withOutputs :
    haltOf i { s with st := st, redrawReq := rd, beepReq := bp, status := su, cause := ca, outcome := o } =
      haltOf i s := by
  cases i <;> rfl

/-- The writes of a dispatch to what a program can see do not depend on the outputs. -/
theorem effect_withOutputs :
    SameVisible (effect i s)
      (effect i { s with st := st, redrawReq := rd, beepReq := bp, status := su, cause := ca, outcome := o }) := by
  cases i <;> exact ⟨rfl, rfl, rfl, rfl, rfl, rfl, rfl, rfl⟩

end

/-- Settles O55: the way a dispatch ends is the same, and so are its writes to what a program can see. -/
theorem outputsAreNotRead : Obligations.OutputsAreNotRead := by
  intro i s t st rd bp su ca o h
  refine ⟨_, exec_eq .., ?_⟩
  rcases exec_cases h with ⟨hn, rfl⟩ | ⟨k, hs, rfl⟩
  · rw [dispatched_of_no_halt (haltOf_withOutputs .. ▸ hn)]
    obtain ⟨hmem, hv, hi, hpc, hstack, hsp, hdt, hfb⟩ := effect_withOutputs i s st rd bp su ca o
    exact ⟨hmem, hv, hi, hpc, hstack, hsp, hdt, hfb, rfl⟩
  · rw [dispatched_of_halt (haltOf_withOutputs .. ▸ hs)]
    cases k <;> exact ⟨rfl, rfl, rfl, rfl, rfl, rfl, rfl, rfl, rfl⟩

end Sys2Proof.Machine
end

section
/-! SUPPORT. The two invariants: reset meets them, and every case of a step keeps them (spec/10_state.md R27, R36;
spec/60_exceptions.md R232). -/

namespace Sys2Proof.Machine

open Sys2Proof.Safety

variable {i : Instr} {s t : State}

/-! ### The end of a tick touches neither invariant -/

@[simp] theorem finish_mem : s.finish.mem = s.mem := by unfold State.finish; split <;> rfl
@[simp] theorem finish_pc : s.finish.pc = s.pc := by unfold State.finish; split <;> rfl
@[simp] theorem finish_stack : s.finish.stack = s.stack := by unfold State.finish; split <;> rfl
@[simp] theorem finish_sp : s.finish.sp = s.sp := by unfold State.finish; split <;> rfl
@[simp] theorem finish_status : s.finish.status = s.status := by unfold State.finish; split <;> rfl
@[simp] theorem finish_cause : s.finish.cause = s.cause := by unfold State.finish; split <;> rfl

theorem inv_finish (h : Inv s) : Inv s.finish :=
  ⟨by simpa using h.memWf, by simpa using h.causeIffFault, by simpa using h.endedEmpty⟩

theorem pcBounded_finish (h : PcBounded s) : PcBounded s.finish :=
  ⟨by simpa using h.pcLe, by simpa using h.stackLe⟩

/-- The cases of a step that the invariants need: the end of a tick's fault or dispatch, a stopped tick, a reset, an
acknowledge. Whatever holds after each, and does not see the end of a tick, holds after the step. -/
theorem step_induction {P : State → Prop} (h : step s = .next t)
    (finish : ∀ u, P u → P u.finish)
    (fault : ∀ e, P (s.raised e))
    (dispatch : ∀ i u, s.status = .run → s.pc.toNat ≤ 0xFFE → exec i s = .next u → P u)
    (stopped : P { s with outcome := some .stopped }.endTick)
    (reset : ∀ image rest, P { s.hostReset image with schedule := rest })
    (ackRedraw : ∀ rest, P { s.ackRedraw with schedule := rest })
    (ackBeep : ∀ rest, P { s.ackBeep with schedule := rest }) : P t := by
  rcases step_cases h with ⟨-, ht⟩ | ⟨image, rest, -, rfl⟩ | ⟨rest, -, rfl⟩ | ⟨rest, -, rfl⟩
  · rcases tick_cases ht with ⟨hrun, hc⟩ | ⟨-, rfl⟩
    · rcases cycle_cases hc with ⟨-, rfl⟩ | ⟨hpc, w, -, ⟨-, rfl⟩ | ⟨i, u, -, hu, rfl⟩⟩
      · exact finish _ (fault _)
      · exact finish _ (fault _)
      · exact finish _ (dispatch i u hrun hpc hu)
    · exact stopped
  · exact reset image rest
  · exact ackRedraw rest
  · exact ackBeep rest

/-! ### Canonical memory, the cause, and the stack of an ended program -/

theorem reset_inv : Inv State.reset := ⟨reset_mem_wf, by decide, by decide⟩

/-- Every fault has a cause of its own (spec/60_exceptions.md R223). -/
theorem cause_ne_none (e : Exc) : e.cause ≠ .none := by cases e <;> simp [Exc.cause]

/-- Taking a fault sets `status` and `cause` together (spec/60_exceptions.md R229). -/
theorem inv_raised (h : s.mem.wf) (e : Exc) : Inv (s.raised e) :=
  ⟨h, by simp [cause_ne_none], by simp⟩

/-- A dispatch keeps the canonical form of memory: the two storing instructions by the law of a block store. -/
theorem effect_mem_wf (h : s.mem.wf) : (effect i s).mem.wf := by
  cases i with
  | storeRegs | bcd => exact storeBytes_wf _ _ _ _ h
  | _ => exact h

theorem inv_exec (hs : Inv s) (hrun : s.status = .run) (h : exec i s = .next t) : Inv t := by
  have hcause : s.cause = .none := hs.causeIffFault.2 (by simp [hrun])
  rcases exec_cases h with ⟨-, rfl⟩ | ⟨k, hk, rfl⟩
  · exact ⟨effect_mem_wf hs.memWf, by simp [hcause, hrun], by simp [hrun]⟩
  · cases k with
    | waiting => exact ⟨hs.memWf, hs.causeIffFault, hs.endedEmpty⟩
    | ended => exact ⟨hs.memWf, by simp [State.halted, hcause], fun _ => sp_of_ended hk⟩
    | fault e => exact inv_raised hs.memWf e

theorem inv_hostReset (image : List Byte) (rest : List HostMove) :
    Inv { s.hostReset image with schedule := rest } := by
  cases h : imageOk image with
  | true => rw [hostReset_fits h]; exact ⟨loadImage_wf h, by simp [State.reset], by simp [State.reset]⟩
  | false =>
    rw [hostReset_overflow h]
    obtain ⟨hmem, hcause, hended⟩ := inv_raised reset_mem_wf (.loadOverflow image.length)
    exact ⟨hmem, hcause, hended⟩

/-! ### The bounds on `PC` and the stack -/

theorem reset_pcBounded : PcBounded State.reset := ⟨by decide, by decide⟩

/-- The number a zero-extended address stands for. -/
@[simp] theorem toNat_zextAddr (nnn : Addr12) : (zextAddr nnn).toNat = nnn.toNat := by
  have := nnn.isLt
  simp only [zextAddr, BitVec.toNat_setWidth]
  omega

/-- The number a zero-extended byte stands for. -/
@[simp] theorem toNat_zextByte (b : Byte) : (zextByte b).toNat = b.toNat := by
  have := b.isLt
  simp only [zextByte, BitVec.toNat_setWidth]
  omega

/-- The entries in use after a call: those before it, and the fetched instruction's address (decision D10). -/
theorem pushPc_stackLe (hs : PcBounded s) (hpc : s.pc.toNat ≤ 0xFFE) (hfree : s.sp.val < 16) (k : Fin 16)
    (hk : k.val < s.pushPc.sp.val) : (s.pushPc.stack[k.val]).toNat ≤ 0xFFE := by
  rw [pushPc_eq_push hfree] at hk
  simp only [pushPc_eq_push hfree, push_stack, Vector.getElem_set]
  simp only [push_sp] at hk
  split
  · exact hpc
  · exact hs.stackLe k (by omega)

/-- The newest entry in use is within the bound. -/
theorem top_le (hs : PcBounded s) (h : 0 < s.sp.val) : (s.stack[s.sp.val - 1]).toNat ≤ 0xFFE :=
  hs.stackLe ⟨s.sp.val - 1, by omega⟩ (by simp only; omega)

/-- `PC` after a completed dispatch: an address, an address plus a byte, or within 4 of an address that was fetched. -/
theorem effect_pc_le (hs : PcBounded s) (hpc : s.pc.toNat ≤ 0xFFE) (hk : haltOf i s = none) :
    (effect i s).pc.toNat ≤ 0x10FE := by
  by_cases hj : jumps i = false
  · have hmove : (effect i s).pc = s.pc + 2 ∨ (skips i = true ∧ (effect i s).pc = s.pc + 4) := effect_pc hj
    rcases hmove with h | ⟨-, h⟩ <;> rw [h] <;> bv_omega
  · cases i with
    | jp nnn | call nnn =>
      have := nnn.isLt
      simp only [effect, setPc_pc, toNat_zextAddr]
      omega
    | jpV0 nnn =>
      have := nnn.isLt
      have := (s.reg 0).isLt
      simp only [effect, setPc_pc, BitVec.toNat_add, toNat_zextAddr, toNat_zextByte]
      omega
    | ret =>
      have hsp : s.sp.val ≠ 0 := by simpa [haltOf] using hk
      have := top_le hs (by omega)
      simp only [effect, setPc_pc]
      bv_omega
    | _ => exact absurd rfl hj

theorem effect_stackLe (hs : PcBounded s) (hpc : s.pc.toNat ≤ 0xFFE) (hn : haltOf i s = none) (k : Fin 16)
    (hk : k.val < (effect i s).sp.val) : ((effect i s).stack[k.val]).toNat ≤ 0xFFE := by
  cases i with
  | call nnn =>
    have hfree : s.sp.val < 16 := by simpa [haltOf] using hn
    exact pushPc_stackLe hs hpc hfree k hk
  | ret => exact hs.stackLe k (by simp only [effect, setPc_sp, pop_sp] at hk; omega)
  | _ => exact hs.stackLe k hk

theorem pcBounded_exec (hs : PcBounded s) (hpc : s.pc.toNat ≤ 0xFFE) (h : exec i s = .next t) : PcBounded t := by
  rcases exec_cases h with ⟨hn, rfl⟩ | ⟨k, -, rfl⟩
  · exact ⟨effect_pc_le hs hpc hn, effect_stackLe hs hpc hn⟩
  · exact ⟨by simpa using hs.pcLe, by simpa using hs.stackLe⟩

theorem pcBounded_hostReset (image : List Byte) (rest : List HostMove) :
    PcBounded { s.hostReset image with schedule := rest } := by
  obtain ⟨hpc, hstack⟩ := reset_pcBounded
  cases h : imageOk image with
  | true => rw [hostReset_fits h]; exact ⟨hpc, hstack⟩
  | false => rw [hostReset_overflow h]; exact ⟨hpc, hstack⟩

end Sys2Proof.Machine
end

section
/-! The rules about steps: the invariants and the acknowledges (spec/10_state.md). -/

namespace Sys2Proof.Machine

/-- Settles O59: the invariant through each case of a step. -/
theorem stepKeepsInvariant : Obligations.StepKeepsInvariant := by
  intro s t hs h
  obtain ⟨hmem, hcause, hended⟩ := hs
  refine step_induction h ?finish ?fault ?dispatch ?stopped ?reset ?ackRedraw ?ackBeep
  case finish => exact fun _ => inv_finish
  case fault => exact inv_raised hmem
  case dispatch => exact fun i u hrun _ hu => inv_exec ⟨hmem, hcause, hended⟩ hrun hu
  case reset => exact inv_hostReset
  case stopped => exact ⟨hmem, hcause, hended⟩
  case ackRedraw | ackBeep => exact fun _ => ⟨hmem, hcause, hended⟩

/-- Settles O60: only a dispatch moves `PC` or the stack, and it starts from a `PC` that was fetched. -/
theorem stepKeepsPcBounded : Obligations.StepKeepsPcBounded := by
  intro s t hs h
  obtain ⟨hpc, hstack⟩ := hs
  refine step_induction h ?finish ?fault ?dispatch ?stopped ?reset ?ackRedraw ?ackBeep
  case finish => exact fun _ => pcBounded_finish
  case dispatch => exact fun i u _ hfetched hu => pcBounded_exec ⟨hpc, hstack⟩ hfetched hu
  case reset => exact pcBounded_hostReset
  case stopped => exact ⟨hpc, hstack⟩
  case fault | ackRedraw | ackBeep => exact fun _ => ⟨hpc, hstack⟩

/-- Settles O58. -/
theorem resetMeetsInvariants : Obligations.ResetMeetsInvariants := ⟨reset_inv, reset_pcBounded⟩

/-- Settles O15: an acknowledge is the whole of the host's move. -/
theorem acknowledgesClearOneFlag : Obligations.AcknowledgesClearOneFlag := by
  intro s rest
  refine ⟨fun h => ?_, fun h => ?_⟩
  · simp only [step, hostStep, h, State.ackRedraw]
  · simp only [step, hostStep, h, State.ackBeep]

end Sys2Proof.Machine
end

section
/-! SUPPORT. The data accesses of an instruction through its dispatch, and a step that runs an instruction
(spec/20_memory.md R68, R76; spec/60_exceptions.md R220). -/

namespace Sys2Proof.Machine

open Sys2Proof.Safety

variable {i : Instr} {s : State}

/-- An instruction that accesses data memory stops short only by the bound of R68. -/
theorem haltOf_of_access (h : 0 < accessCount i) :
    haltOf i s = (dataFault dataOob s.i (accessCount i)).map .fault := by
  cases i with
  | ret | call | ldVxK => exact absurd h (Nat.lt_irrefl 0)
  | _ => rfl

/-- A data access in range does not keep a dispatch from completing (spec/20_memory.md R68). -/
theorem dispatched_access_in_range (hn : 0 < accessCount i) (h : s.i.toNat + accessCount i ≤ 4096) :
    dispatched i s = (effect i s).completed := by
  have hfault : dataFault dataOob s.i (accessCount i) = none := (dataFault_eq_none_iff ..).2 (.inr h)
  exact dispatched_of_no_halt (by rw [haltOf_of_access hn, hfault]; rfl)

/-- A data access that reaches above 0xFFF makes the dispatch the taking of its fault (spec/60_exceptions.md R227). -/
theorem dispatched_access_out_of_range (hn : 0 < accessCount i) (h : 4096 < s.i.toNat + accessCount i) :
    dispatched i s = s.raised (.dataAddressRange (max s.i.toNat 0x1000)) := by
  have hfault : dataFault dataOob s.i (accessCount i) = some (.dataAddressRange (max s.i.toNat 0x1000)) :=
    dataFault_eq_some hn h
  exact dispatched_of_halt (k := .fault _) (by rw [haltOf_of_access hn, hfault]; rfl)

/-- A step that runs an instruction is its dispatch and the end of the tick. -/
theorem step_of_runs (h : Runs s i) : step s = .next (dispatched i s).finish := by
  obtain ⟨hrun, htick, hpc, hdec⟩ := h
  have hfetch : fetchWord s.mem s.pc =
      .ok (bytesToWord (memGet s.mem s.pc.toNat) (memGet s.mem (s.pc.toNat + 1))) := if_neg (by omega)
  simp only [step_of_tick htick, tick, hrun, cycle, hfetch, runWord, hdec, exec_eq, afterDispatch]

/-- The byte that `LD [I],Vx` leaves at the address of one of its registers (spec/44_index_memory.md R203). -/
theorem memGet_effect_storeRegs {x r : Reg} (hm : s.mem.wf) (h : s.i.toNat + x.toNat ≤ 0xFFF)
    (hr : r.toNat ≤ x.toNat) : memGet (effect (.storeRegs x) s).mem (s.i.toNat + r.toNat) = s.reg r := by
  have hlen : s.i.toNat + 0 + (regBytes s.v 0 (regCount x)).length ≤ 4096 := by
    simp only [length_regBytes, regCount]; omega
  have hcount : r.toNat < regCount x := Nat.lt_succ_of_le hr
  calc memGet (effect (.storeRegs x) s).mem (s.i.toNat + r.toNat)
      = memGet (storeBytes .fault s.i 0 (regBytes s.v 0 (regCount x)) s.mem) (s.i.toNat + r.toNat) := rfl
    _ = ((regBytes s.v 0 (regCount x))[r.toNat]?).getD (memGet s.mem (s.i.toNat + r.toNat)) := by
      simp [memGet_storeBytes s.i 0 _ hm hlen]
    _ = s.reg r := by
      rw [getElem?_regBytes, if_pos hcount]
      simp [reg_eq]

end Sys2Proof.Machine
end

section
/-! SUPPORT. The cells of a memory in canonical form, told from its bytes (spec/20_memory.md R61). -/

namespace Sys2Proof.Machine

/-- In a memory with rising addresses, a listed cell is what its address reads as. -/
theorem memGet_of_mem {m : Memory} (hm : m.Pairwise (fun c d => c.1 < d.1)) {c : Host.Cell} (hc : c ∈ m) :
    memGet m c.1 = c.2 := by
  induction m with
  | nil => cases hc
  | cons d rest ih =>
    obtain ⟨hlt, hrest⟩ := List.pairwise_cons.1 hm
    rcases List.mem_cons.1 hc with rfl | h
    · simp [memGet]
    · simp [memGet, (hlt c h).ne', ih hrest h]

/-- Memories with rising addresses that list the same cells are equal. -/
theorem rising_eq_of_mem_iff {m m' : Memory} (hm : m.Pairwise (fun c d => c.1 < d.1))
    (hm' : m'.Pairwise (fun c d => c.1 < d.1)) (h : ∀ c, c ∈ m ↔ c ∈ m') : m = m' :=
  have : Std.Irrefl (fun c d : Host.Cell => c.1 < d.1) := ⟨fun _ => Nat.lt_irrefl _⟩
  have : Std.Antisymm (fun c d : Host.Cell => c.1 < d.1) := ⟨fun _ _ hlt hgt => absurd hlt hgt.not_gt⟩
  hm.eq_of_mem_iff hm' h

/-- An address that does not read as its reset contents is listed, with the byte it reads as. -/
theorem mem_of_memGet {m : Memory} {a : Nat} (h : memGet m a ≠ resetByte a) : (a, memGet m a) ∈ m := by
  induction m with
  | nil => exact absurd rfl h
  | cons c rest ih =>
    obtain ⟨k, b⟩ := c
    by_cases hk : a = k
    · simp [memGet, hk]
    · simp only [memGet, hk, if_false] at h ⊢
      exact List.mem_cons_of_mem _ (ih h)

/-- A canonical memory lists exactly the addresses in range that do not read as their reset contents. -/
theorem mem_iff_memGet {m : Memory} (hm : m.wf) (c : Host.Cell) :
    c ∈ m ↔ c.1 < Config.memSize ∧ memGet m c.1 = c.2 ∧ c.2 ≠ resetByte c.1 := by
  obtain ⟨hrising, hcells⟩ := hm
  constructor
  · exact fun hc => ⟨(hcells c hc).1, memGet_of_mem hrising hc, (hcells c hc).2⟩
  · rintro ⟨-, hget, hne⟩
    have hc : (c.1, memGet m c.1) ∈ m := mem_of_memGet (hget ▸ hne)
    rwa [hget] at hc

end Sys2Proof.Machine
end

section
/-! The rules about memory (spec/20_memory.md). -/

namespace Sys2Proof.Machine

open Sys2Proof.Safety

/-- Settles O49: the bound is checked before any access, so the dispatch is the taking of the fault. -/
theorem dataPastEndFaults : Obligations.DataPastEndFaults := by
  intro i s hn hend
  exact ⟨by rw [exec_eq, dispatched_access_out_of_range hn (by omega)]; rfl, rfl⟩

/-- Settles O50: the step's memory is the one the dispatch stored into, and both bytes of the fetch are its registers. -/
theorem storeIsSeenByNextFetch : Obligations.StoreIsSeenByNextFetch := by
  intro x s t hm hruns hrange hstep r q pc hq hqx hpc
  have hcompletes : dispatched (.storeRegs x) s = (effect (.storeRegs x) s).completed :=
    dispatched_access_in_range (Nat.succ_pos _) (by simp only [accessCount]; omega)
  have ht : t = (effect (.storeRegs x) s).completed.finish := by
    simpa [step_of_runs hruns, hcompletes, eq_comm] using hstep
  have hmem : t.mem = (effect (.storeRegs x) s).mem := by rw [ht, finish_mem, completed_mem]
  have hhi : memGet t.mem pc.toNat = s.reg r := by
    rw [hmem, hpc, memGet_effect_storeRegs hm hrange (by omega)]
  have hlo : memGet t.mem (pc.toNat + 1) = s.reg q := by
    rw [hmem, hpc, Nat.add_assoc, ← hq, memGet_effect_storeRegs hm hrange hqx]
  rw [fetchWord, if_neg (by omega), hhi, hlo]

/-- Settles O57: the two list the same cells, in the same rising order. -/
theorem canonicalMemoriesAreEqual : Obligations.CanonicalMemoriesAreEqual := by
  intro m m' hm hm' hread
  have hcells : ∀ c, c ∈ m ↔ c ∈ m' := fun c => by
    rw [mem_iff_memGet hm, mem_iff_memGet hm']
    exact and_congr_right fun hc => by rw [hread c.1 hc]
  exact rising_eq_of_mem_iff hm.1 hm'.1 hcells

end Sys2Proof.Machine
end

section
/-! SUPPORT. The fields of a word in each format, a word from its fields, and a word from its two bytes
(spec/30_encoding.md R90 to R92). -/

namespace Sys2Proof.Laws

open BitVec

section
variable (op x y n : Nibble) (nn : Byte) (nnn : Addr12)

/-- Format `XNN` is format `NNN` with `X` and `NN` side by side. -/
theorem wordXNN_eq : wordXNN op x nn = wordNNN op (x ++ nn) := append_assoc

/-- Format `XYN` is format `XNN` with `Y` and `N` side by side. -/
theorem wordXYN_eq : wordXYN op x y n = wordXNN op x (y ++ n) := append_assoc

@[simp] theorem opField_wordNNN : opField (wordNNN op nnn) = op := extractLsb'_append_eq_left

@[simp] theorem nnnField_wordNNN : nnnField (wordNNN op nnn) = nnn := extractLsb'_append_eq_right

@[simp] theorem opField_wordXNN : opField (wordXNN op x nn) = op := by rw [wordXNN_eq, opField_wordNNN]

@[simp] theorem xField_wordXNN : xField (wordXNN op x nn) = x :=
  (extractLsb'_append_eq_of_le (by decide)).trans extractLsb'_append_eq_right

@[simp] theorem nnField_wordXNN : nnField (wordXNN op x nn) = nn := extractLsb'_append_eq_right

@[simp] theorem opField_wordXYN : opField (wordXYN op x y n) = op := by rw [wordXYN_eq, opField_wordXNN]

@[simp] theorem xField_wordXYN : xField (wordXYN op x y n) = x := by rw [wordXYN_eq, xField_wordXNN]

@[simp] theorem yField_wordXYN : yField (wordXYN op x y n) = y :=
  (extractLsb'_append_eq_of_le (by decide)).trans extractLsb'_append_eq_right

@[simp] theorem nField_wordXYN : nField (wordXYN op x y n) = n := extractLsb'_append_eq_right

end

variable {op n : Nibble} {nn : Byte} (v w : Word)

theorem xField_append_nnField : xField w ++ nnField w = nnnField w :=
  extractLsb'_append_extractLsb'_eq_extractLsb' rfl

theorem yField_append_nField : yField w ++ nField w = nnField w :=
  extractLsb'_append_extractLsb'_eq_extractLsb' rfl

theorem wordNNN_fields : wordNNN (opField w) (nnnField w) = w :=
  (extractLsb'_append_extractLsb'_eq_extractLsb' rfl).trans extractLsb'_eq_self

theorem wordXNN_fields : wordXNN (opField w) (xField w) (nnField w) = w := by
  rw [wordXNN_eq, xField_append_nnField, wordNNN_fields]

theorem wordXYN_fields : wordXYN (opField w) (xField w) (yField w) (nField w) = w := by
  rw [wordXYN_eq, yField_append_nField, wordXNN_fields]

theorem opField_and : opField (v &&& w) = opField v &&& opField w := extractLsb'_and
theorem xField_and : xField (v &&& w) = xField v &&& xField w := extractLsb'_and
theorem yField_and : yField (v &&& w) = yField v &&& yField w := extractLsb'_and
theorem nField_and : nField (v &&& w) = nField v &&& nField w := extractLsb'_and
theorem nnField_and : nnField (v &&& w) = nnField v &&& nnField w := extractLsb'_and

/-- A word with its low nibble 0. -/
theorem wordXYN_fields_zero : wordXYN (opField w) (xField w) (yField w) 0x0#4 = w &&& 0xFFF0#16 := by
  have hop : opField (w &&& 0xFFF0#16) = opField w := (opField_and ..).trans and_allOnes
  have hx : xField (w &&& 0xFFF0#16) = xField w := (xField_and ..).trans and_allOnes
  have hy : yField (w &&& 0xFFF0#16) = yField w := (yField_and ..).trans and_allOnes
  have hn : nField (w &&& 0xFFF0#16) = 0x0#4 := (nField_and ..).trans and_zero
  rw [← wordXYN_fields (w &&& 0xFFF0#16), hop, hx, hy, hn]

/-- The two bytes of a word, in memory order, are the word (spec/20_memory.md R64). -/
@[simp] theorem bytesToWord_hiByte_loByte : bytesToWord (hiByte w) (loByte w) = w :=
  (extractLsb'_append_extractLsb'_eq_extractLsb' rfl).trans extractLsb'_eq_self

/-! The same with the fields a lookup compares given by their numbers. -/

variable {w}

theorem wordNNN_of_family (hop : (opField w).toNat = op.toNat) : wordNNN op (nnnField w) = w := by
  rw [← eq_of_toNat_eq hop, wordNNN_fields]

theorem wordXNN_of_family (hop : (opField w).toNat = op.toNat) : wordXNN op (xField w) (nnField w) = w := by
  rw [← eq_of_toNat_eq hop, wordXNN_fields]

theorem wordXNN_of_lookup (hop : (opField w).toNat = op.toNat) (hnn : (nnField w).toNat = nn.toNat) :
    wordXNN op (xField w) nn = w := by
  rw [← eq_of_toNat_eq hnn, wordXNN_of_family hop]

theorem wordXYN_of_family (hop : (opField w).toNat = op.toNat) :
    wordXYN op (xField w) (yField w) (nField w) = w := by
  rw [← eq_of_toNat_eq hop, wordXYN_fields]

theorem wordXYN_of_lookup (hop : (opField w).toNat = op.toNat) (hn : (nField w).toNat = n.toNat) :
    wordXYN op (xField w) (yField w) n = w := by
  rw [← eq_of_toNat_eq hn, wordXYN_of_family hop]

end Sys2Proof.Laws
end

section
/-! SUPPORT. What the decoder answers (spec/30_encoding.md R94 to R101): the instruction for its own word, which word an
instruction came from, and none exactly for the unknown words of each family. -/

namespace Sys2Proof.Laws

variable {w : Word} {i : Instr}

theorem decodeWord_eq_ok_iff : decodeWord w = .ok i ↔ decodeWord? w = some i := by
  unfold decodeWord
  cases decodeWord? w <;> simp

theorem decodeWord_eq_error_iff {e : DecodeError} :
    decodeWord w = .error e ↔ decodeWord? w = none ∧ e = .unknown w := by
  unfold decodeWord
  cases decodeWord? w <;> simp [eq_comm]

/-! ### Decode after encode -/

/-- The lookups find the instruction, and each format's fields are its operands. -/
theorem decodeWord?_encodeWord (i : Instr) : decodeWord? (encodeWord i) = some i := by
  cases i with
  | cls | ret => rfl
  | skp | sknp => simp [encodeWord, decodeWord?, decodeFamilyE]
  | ldVxDt | ldVxK | ldDtVx | ldStVx | addI | ldF | storeRegs | loadRegs | bcd =>
    simp [encodeWord, decodeWord?, decodeFamilyF]
  | ldReg | orReg | andReg | xorReg | addReg | subReg | shr | subn | shl =>
    simp [encodeWord, decodeWord?, decodeFamily8]
  | _ => simp [encodeWord, decodeWord?]

theorem decode_encode (i : Instr) (rest : List Byte) : decode (encode i ++ rest) = .ok (i, rest) := by
  have h : decodeWord (encodeWord i) = .ok i := decodeWord_eq_ok_iff.2 (decodeWord?_encodeWord i)
  simp [encode, decode, h]

theorem decodeWord?_family5 (h : opField w = 0x5#4) : decodeWord? w = some (.seReg (xField w) (yField w)) := by
  simp [decodeWord?, h]

theorem decodeWord?_family9 (h : opField w = 0x9#4) : decodeWord? w = some (.sneReg (xField w) (yField w)) := by
  simp [decodeWord?, h]

/-! ### Encode after decode -/

theorem encodeWord_of_decodeFamily0 (h : decodeFamily0 w = some i) : encodeWord i = w := by
  unfold decodeFamily0 at h
  split at h <;> cases h
  all_goals exact (BitVec.eq_of_toNat_eq ‹_›).symm

theorem encodeWord_of_decodeFamily8 (hop : (opField w).toNat = 0x8) (h : decodeFamily8 w = some i) :
    encodeWord i = w := by
  unfold decodeFamily8 at h
  split at h <;> cases h
  all_goals exact wordXYN_of_lookup hop ‹_›

theorem encodeWord_of_decodeFamilyE (hop : (opField w).toNat = 0xE) (h : decodeFamilyE w = some i) :
    encodeWord i = w := by
  unfold decodeFamilyE at h
  split at h <;> cases h
  all_goals exact wordXNN_of_lookup hop ‹_›

theorem encodeWord_of_decodeFamilyF (hop : (opField w).toNat = 0xF) (h : decodeFamilyF w = some i) :
    encodeWord i = w := by
  unfold decodeFamilyF at h
  split at h <;> cases h
  all_goals exact wordXNN_of_lookup hop ‹_›

/-- Outside the two families that ignore `N`, a word is the encoding of what it decodes to (R99, R105). -/
theorem encodeWord_of_decodeWord? (h5 : opField w ≠ 0x5#4) (h9 : opField w ≠ 0x9#4) (h : decodeWord? w = some i) :
    encodeWord i = w := by
  unfold decodeWord? at h
  split at h
  case h_1 => exact encodeWord_of_decodeFamily0 h
  case h_9 hop => exact encodeWord_of_decodeFamily8 hop h
  case h_15 hop => exact encodeWord_of_decodeFamilyE hop h
  case h_16 hop => exact encodeWord_of_decodeFamilyF hop h
  case h_6 hop => exact absurd (BitVec.eq_of_toNat_eq hop) h5
  case h_10 hop => exact absurd (BitVec.eq_of_toNat_eq hop) h9
  case h_2 hop | h_3 hop | h_11 hop | h_12 hop => cases h; exact wordNNN_of_family hop
  case h_4 hop | h_5 hop | h_7 hop | h_8 hop | h_13 hop => cases h; exact wordXNN_of_family hop
  case h_14 hop => cases h; exact wordXYN_of_family hop
  case h_17 => cases h

/-! ### The unknown words -/

theorem decodeFamily0_eq_none_iff : decodeFamily0 w = none ↔ w ≠ 0x00E0#16 ∧ w ≠ 0x00EE#16 := by
  unfold decodeFamily0
  split <;> simp_all [← BitVec.toNat_inj]

theorem decodeFamily8_eq_none_iff :
    decodeFamily8 w = none ↔ (nField w).toNat ∈ [8, 9, 0xA, 0xB, 0xC, 0xD, 0xF] := by
  have hlt : (nField w).toNat < 16 := (nField w).isLt
  unfold decodeFamily8
  split
  case h_10 => simp only [imp_false, List.mem_cons, List.not_mem_nil, true_iff] at *; omega
  all_goals simp [*]

theorem decodeFamilyE_eq_none_iff : decodeFamilyE w = none ↔ (nnField w).toNat ∉ [0x9E, 0xA1] := by
  unfold decodeFamilyE
  split <;> simp_all

theorem decodeFamilyF_eq_none_iff :
    decodeFamilyF w = none ↔ (nnField w).toNat ∉ [0x07, 0x0A, 0x15, 0x18, 0x1E, 0x29, 0x33, 0x55, 0x65] := by
  unfold decodeFamilyF
  split <;> simp_all

/-- Only the four families with a second lookup hold unknown words (R101). -/
theorem decodeWord?_eq_none_iff : decodeWord? w = none ↔
    (opField w = 0x0#4 ∧ decodeFamily0 w = none) ∨ (opField w = 0x8#4 ∧ decodeFamily8 w = none) ∨
    (opField w = 0xE#4 ∧ decodeFamilyE w = none) ∨ (opField w = 0xF#4 ∧ decodeFamilyF w = none) := by
  have hlt : (opField w).toNat < 16 := (opField w).isLt
  unfold decodeWord?
  split
  case h_17 => simp only [imp_false] at *; omega
  all_goals simp [← BitVec.toNat_inj, *]

end Sys2Proof.Laws
end

section
/-! SUPPORT. The rows of the opcode map that a word selects (spec/30_encoding.md R100, R103). -/

namespace Sys2Proof.Laws

variable {v w : Word} {i : Instr} {r : OpcodeRow}

/-- The name of the row of what a word decodes to. -/
def rowNameOf (w : Word) : Option String := (decodeWord? w).map Instr.rowName

/-- A row looks at every bit that the lookups of its value look at: `OP`, then the whole word in family 0x0, `N` in 0x8, `NN`
in 0xE and 0xF (R94 to R98). -/
def RowCovers (r : OpcodeRow) : Prop :=
  opField r.mask = 0xF#4 ∧ (opField r.value = 0x0#4 → r.mask = 0xFFFF#16) ∧
  (opField r.value = 0x8#4 → nField r.mask = 0xF#4) ∧
  (opField r.value = 0xE#4 ∨ opField r.value = 0xF#4 → nnField r.mask = 0xFF#8)

/-- Every row of the map does. -/
theorem opcodeRows_covers : ∀ r ∈ opcodeRows, RowCovers r := by
  unfold RowCovers; decide

/-- The value of a row, taken as a word, decodes to the row's own instruction. -/
theorem opcodeRows_rowNameOf : ∀ r ∈ opcodeRows, rowNameOf r.value = some r.name := by decide

theorem opcodeRows_names_nodup : (opcodeRows.map (·.name)).Nodup := by decide

theorem decodeFamily8_rowName_congr (h : nField w = nField v) :
    (decodeFamily8 w).map Instr.rowName = (decodeFamily8 v).map Instr.rowName := by
  unfold decodeFamily8
  rw [h]
  split <;> rfl

theorem decodeFamilyE_rowName_congr (h : nnField w = nnField v) :
    (decodeFamilyE w).map Instr.rowName = (decodeFamilyE v).map Instr.rowName := by
  unfold decodeFamilyE
  rw [h]
  split <;> rfl

theorem decodeFamilyF_rowName_congr (h : nnField w = nnField v) :
    (decodeFamilyF w).map Instr.rowName = (decodeFamilyF v).map Instr.rowName := by
  unfold decodeFamilyF
  rw [h]
  split <;> rfl

/-- Words that agree in the bits the lookups look at decode to instructions of one row. -/
theorem rowNameOf_congr (hop : opField w = opField v) (h0 : opField v = 0x0#4 → w = v)
    (h8 : opField v = 0x8#4 → nField w = nField v)
    (hEF : opField v = 0xE#4 ∨ opField v = 0xF#4 → nnField w = nnField v) : rowNameOf w = rowNameOf v := by
  unfold rowNameOf decodeWord?
  rw [hop]
  split
  case h_1 hv => rw [h0 (BitVec.eq_of_toNat_eq hv)]
  case h_9 hv => exact decodeFamily8_rowName_congr (h8 (BitVec.eq_of_toNat_eq hv))
  case h_15 hv => exact decodeFamilyE_rowName_congr (hEF (.inl (BitVec.eq_of_toNat_eq hv)))
  case h_16 hv => exact decodeFamilyF_rowName_congr (hEF (.inr (BitVec.eq_of_toNat_eq hv)))
  all_goals rfl

/-- The word of every instruction selects the row with its name. -/
theorem rowWord : (i : Instr) → RowWord.Statement i
  | .cls => RowWord.cls
  | .ret => RowWord.ret
  | .jp _ => RowWord.jp _
  | .call _ => RowWord.call _
  | .seImm _ _ => RowWord.seImm _ _
  | .sneImm _ _ => RowWord.sneImm _ _
  | .seReg _ _ => RowWord.seReg _ _
  | .sneReg _ _ => RowWord.sneReg _ _
  | .ldImm _ _ => RowWord.ldImm _ _
  | .addImm _ _ => RowWord.addImm _ _
  | .ldReg _ _ => RowWord.ldReg _ _
  | .orReg _ _ => RowWord.orReg _ _
  | .andReg _ _ => RowWord.andReg _ _
  | .xorReg _ _ => RowWord.xorReg _ _
  | .addReg _ _ => RowWord.addReg _ _
  | .subReg _ _ => RowWord.subReg _ _
  | .shr _ _ => RowWord.shr _ _
  | .subn _ _ => RowWord.subn _ _
  | .shl _ _ => RowWord.shl _ _
  | .jpV0 _ => RowWord.jpV0 _
  | .rnd _ _ => RowWord.rnd _ _
  | .drw _ _ _ => RowWord.drw _ _ _
  | .skp _ => RowWord.skp _
  | .sknp _ => RowWord.sknp _
  | .ldI _ => RowWord.ldI _
  | .ldVxDt _ => RowWord.ldVxDt _
  | .ldVxK _ => RowWord.ldVxK _
  | .ldDtVx _ => RowWord.ldDtVx _
  | .ldStVx _ => RowWord.ldStVx _
  | .addI _ => RowWord.addI _
  | .ldF _ => RowWord.ldF _
  | .storeRegs _ => RowWord.storeRegs _
  | .loadRegs _ => RowWord.loadRegs _
  | .bcd _ => RowWord.bcd _

/-- A word decodes like the value of a row it selects, so to the row's instruction. -/
theorem rowNameOf_of_selects (hr : r ∈ opcodeRows) (hw : r.selects w = true) : rowNameOf w = some r.name := by
  obtain ⟨hop, h0, h8, hEF⟩ := opcodeRows_covers r hr
  have hval : r.value = w &&& r.mask := (beq_iff_eq.1 hw).symm
  rw [← opcodeRows_rowNameOf r hr]
  apply rowNameOf_congr
  · rw [hval, opField_and, hop]; exact BitVec.and_allOnes.symm
  · intro h; rw [hval, h0 h]; exact BitVec.and_allOnes.symm
  · intro h; rw [hval, nField_and, h8 h]; exact BitVec.and_allOnes.symm
  · intro h; rw [hval, nnField_and, hEF h]; exact BitVec.and_allOnes.symm

/-- The bits of a word under a mask of the high nibble. -/
theorem and_family_mask (w : Word) : w &&& 0xF000#16 = opField w ++ 0#12 := by
  have h := wordNNN_family (opField w) (nnnField w)
  rwa [wordNNN_fields] at h

theorem exists_row_of_decodeWord? (h : decodeWord? w = some i) :
    ∃ r ∈ opcodeRows, r.name = i.rowName ∧ r.selects w = true := by
  by_cases h5 : opField w = 0x5#4
  · obtain rfl : Instr.seReg (xField w) (yField w) = i := by simpa [decodeWord?_family5 h5] using h
    exact ⟨⟨"SE_Vx_Vy", 0x5000#16, 0xF000#16⟩, by decide, rfl, by simp [OpcodeRow.selects, and_family_mask, h5]⟩
  by_cases h9 : opField w = 0x9#4
  · obtain rfl : Instr.sneReg (xField w) (yField w) = i := by simpa [decodeWord?_family9 h9] using h
    exact ⟨⟨"SNE_Vx_Vy", 0x9000#16, 0xF000#16⟩, by decide, rfl, by simp [OpcodeRow.selects, and_family_mask, h9]⟩
  · exact encodeWord_of_decodeWord? h5 h9 h ▸ rowWord i

/-- A name is that of a selected row when it is the name of the row of what the word decodes to. -/
theorem mem_selected_names_iff (w : Word) (name : String) :
    name ∈ (opcodeRows.filter (·.selects w)).map (·.name) ↔ rowNameOf w = some name := by
  constructor
  · intro h
    obtain ⟨r, hr, rfl⟩ := List.mem_map.1 h
    obtain ⟨hr, hw⟩ := List.mem_filter.1 hr
    exact rowNameOf_of_selects hr hw
  · intro h
    obtain ⟨i, hi, rfl⟩ := Option.map_eq_some_iff.1 h
    obtain ⟨r, hr, hname, hw⟩ := exists_row_of_decodeWord? hi
    exact List.mem_map.2 ⟨r, List.mem_filter.2 ⟨hr, hw⟩, hname⟩

/-- No two selected rows have one name, so the name that is there is there once. -/
theorem selected_names (w : Word) :
    (opcodeRows.filter (·.selects w)).map (·.name) = (rowNameOf w).toList := by
  have hnodup := opcodeRows_names_nodup.sublist ((List.filter_sublist (p := (·.selects w))).map _)
  have hmem := mem_selected_names_iff w
  cases h : rowNameOf w with
  | none => exact List.eq_nil_iff_forall_not_mem.2 fun name hin => by simpa [h] using (hmem name).1 hin
  | some name =>
    refine List.perm_singleton.1 ((List.perm_ext_iff_of_nodup hnodup (List.nodup_singleton name)).2 fun a => ?_)
    rw [hmem, h, Option.some_inj, List.mem_singleton, eq_comm]

end Sys2Proof.Laws
end

section
/-! The rules about encoding and decode (spec/30_encoding.md). -/

namespace Sys2Proof.Laws

/-- Settles O1: the operands fit their fields by their types, so the premise is not needed. -/
theorem decodeOfEncodeIsIdentity : Obligations.DecodeOfEncodeIsIdentity :=
  fun i rest _ => decode_encode i rest

/-- Settles O2: families 0x5 and 0x9 hold the register skips, which are encoded with a low nibble of 0. -/
theorem encodeOfDecodeIsCanonical : Obligations.EncodeOfDecodeIsCanonical := by
  intro w i h
  rw [decodeWord_eq_ok_iff] at h
  refine ⟨fun h5 h9 => encodeWord_of_decodeWord? h5 h9 h, ?_⟩
  rintro (h5 | h9)
  · obtain rfl : Instr.seReg (xField w) (yField w) = i := by simpa [decodeWord?_family5 h5] using h
    rw [← wordXYN_fields_zero, h5]; rfl
  · obtain rfl : Instr.sneReg (xField w) (yField w) = i := by simpa [decodeWord?_family9 h9] using h
    rw [← wordXYN_fields_zero, h9]; rfl

/-- Settles O3: the selected rows are told by their names. -/
theorem decodeSelectsTheOneRow : Obligations.DecodeSelectsTheOneRow := by
  intro w
  split
  · next i h => rw [selected_names, rowNameOf, decodeWord_eq_ok_iff.1 h]; rfl
  · next e h =>
    obtain ⟨hnone, he⟩ := decodeWord_eq_error_iff.1 h
    have hnames := selected_names w
    rw [rowNameOf, hnone] at hnames
    exact ⟨he, List.map_eq_nil_iff.1 hnames⟩

/-- Settles O4: the families with a second lookup, and in each the words it does not find. -/
theorem unknownWordsByFamily : Obligations.UnknownWordsByFamily := by
  intro w
  rw [decodeWord_eq_error_iff, decodeWord?_eq_none_iff, decodeFamily0_eq_none_iff, decodeFamily8_eq_none_iff,
    decodeFamilyE_eq_none_iff, decodeFamilyF_eq_none_iff, and_iff_left rfl]

/-- Settles O5: `N` is in neither the family nor an operand. -/
theorem registerSkipsIgnoreLowNibble : Obligations.RegisterSkipsIgnoreLowNibble := by
  intro x y n
  have h5 := decodeWord?_family5 (opField_wordXYN 0x5#4 x y n)
  have h9 := decodeWord?_family9 (opField_wordXYN 0x9#4 x y n)
  rw [xField_wordXYN, yField_wordXYN] at h5 h9
  exact ⟨decodeWord_eq_ok_iff.2 h5, decodeWord_eq_ok_iff.2 h9⟩

/-- Settles O6: but for the unknown word, each is the encoding of its instruction. -/
theorem specWordsDecode : Obligations.SpecWordsDecode :=
  ⟨decode_encode .cls [], decode_encode .ret [], decode_encode (.ldImm 0xA 0x3C) [], decode_encode (.ldI 0x200) [],
   decode_encode (.drw 0 1 5) [], decode_encode (.seImm 3 0) [], decode_encode (.shr 1 2) [],
   decode_encode (.skp 5) [], decode_encode (.storeRegs 1) [], rfl⟩

end Sys2Proof.Laws
end

section
/-! SUPPORT. Decode of a word from its encoder (spec/30_encoding.md R92, R94). -/

namespace Sys2Proof.Laws

theorem decodeWord_encodeWord (i : Instr) : decodeWord (encodeWord i) = .ok i :=
  decodeWord_eq_ok_iff.2 (decodeWord?_encodeWord i)

end Sys2Proof.Laws
end

section
/-! SUPPORT. The frame of a state built by the updates of control transfer: each update keeps every piece of state but the
ones it writes (spec/10_state.md R20). -/

namespace Sys2Proof.Safety

open Sys2Proof.Machine

variable {ps : List Piece} {s t : State}

theorem KeepsAllBut.refl : KeepsAllBut ps s s := by
  intro p _
  cases p with
  | mem | v | stack => exact fun _ => rfl
  | fb => exact fun _ _ => rfl
  | inputs => exact ⟨rfl, rfl⟩
  | _ => rfl

/-- The outcome is an output at the edge and no piece of state (spec/10_state.md R39). -/
theorem KeepsAllBut.completed (h : KeepsAllBut ps s t) : KeepsAllBut ps s t.completed := by
  intro p hp
  cases p <;> exact h _ hp

theorem KeepsAllBut.setPc (h : KeepsAllBut ps s t) (hpc : .pc ∈ ps) (w : Word) : KeepsAllBut ps s (t.setPc w) := by
  intro p hp
  cases p with
  | pc => exact absurd hpc hp
  | _ => exact h _ hp

theorem KeepsAllBut.pop (h : KeepsAllBut ps s t) (hsp : .sp ∈ ps) : KeepsAllBut ps s t.pop := by
  intro p hp
  cases p with
  | sp => exact absurd hsp hp
  | _ => exact h _ hp

theorem KeepsAllBut.push (h : KeepsAllBut ps s t) (hsp : .sp ∈ ps) (hstack : .stack ∈ ps) (w : Word)
    (hfree : t.sp.val < 16) : KeepsAllBut ps s (t.push w hfree) := by
  intro p hp
  cases p with
  | sp => exact absurd hsp hp
  | stack => exact absurd hstack hp
  | _ => exact h _ hp

/-- A dispatch whose one write is `PC` keeps all else. -/
theorem keepsAllBut_pc (s : State) (w : Word) : KeepsAllBut [.pc] s (s.setPc w).completed :=
  (KeepsAllBut.refl.setPc List.mem_cons_self w).completed

end Sys2Proof.Safety
end

section
/-! SUPPORT. The dispatches of control transfer (spec/40_control_transfer.md). -/

namespace Sys2Proof.Machine

open Sys2Proof.Safety

variable {i : Instr} {s : State}

theorem exec_of_no_halt (h : haltOf i s = none) : exec i s = .next (effect i s).completed := by
  rw [exec_eq, dispatched_of_no_halt h]

theorem exec_call_of_free (nnn : Addr12) (h : s.sp.val < 16) :
    exec (.call nnn) s = .next ((s.push s.pc h).setPc (zextAddr nnn)).completed := by
  rw [exec_of_no_halt (i := .call nnn) (if_pos h), effect, pushPc_eq_push h]

/-- The entries after a push: the stacked word where the stack pointer stood, every other entry as before. -/
theorem push_stack_getElem (w : Word) (h : s.sp.val < 16) (k : Fin 16) :
    (s.push w h).stack[k.val] = if k.val = s.sp.val then w else s.stack[k.val] := by
  simp only [push_stack, Vector.getElem_set, eq_comm]

theorem exec_ret_of_inUse (k : Fin 16) (h : s.sp.val = k.val + 1) :
    exec .ret s = .next (s.pop.setPc (s.stack[k.val] + 2)).completed := by
  have hk : s.sp.val - 1 = k.val := by omega
  have hne : s.sp.val ≠ 0 := by omega
  simp only [exec_of_no_halt (i := .ret) (if_neg hne), effect, hk]

theorem dispatched_ret_of_empty (h : s.sp.val = 0) : dispatched .ret s = s.programEnd :=
  dispatched_of_halt (k := .ended) (if_pos h)

/-- A dispatch that is a skip on `c` completes, moves `PC` by 4 where `c` holds and by 2 where it does not, and keeps all
else (spec/40_control_transfer.md R120). -/
theorem exec_skip {c : Bool} {P Q : Prop} (hexec : exec i s = complete (s.skipIf c)) (hP : P → c = true)
    (hQ : Q → c = false) :
    ∃ t, exec i s = .next t ∧ t.outcome = some .completed ∧
      (P → t.pc = s.pc + 4) ∧ (Q → t.pc = s.pc + 2) ∧ KeepsAllBut [.pc] s t := by
  refine ⟨_, hexec, rfl, fun p => ?_, fun q => ?_, keepsAllBut_pc s _⟩
  · simp [hP p]
  · simp [hQ q]

end Sys2Proof.Machine
end

section
/-! The rules about control transfer (spec/40_control_transfer.md). -/

namespace Sys2Proof.Machine

open Sys2Proof.Safety

/-- Settles O24: the newest entry of the returning state is the one the call stacked, the address of the call. -/
theorem returnResumesAfterCall : Obligations.ReturnResumesAfterCall := by
  intro nnn s t u hfree hcall hsp hstack
  obtain rfl : ((s.push s.pc hfree).setPc (zextAddr nnn)).completed = t := by
    simpa [exec_call_of_free nnn hfree] using hcall
  have hdepth : u.sp.val = s.sp.val + 1 := congrArg Fin.val hsp
  have htop : u.stack[s.sp.val] = s.pc := by
    rw [hstack ⟨s.sp.val, hfree⟩ (Nat.lt_succ_self _)]
    simp
  refine ⟨_, exec_ret_of_inUse ⟨s.sp.val, hfree⟩ hdepth, rfl, ?_, ?_⟩
  · simp [htop]
  · exact Fin.ext (by simp [hdepth])

/-- Settles O17: the program end is no completed dispatch, so that no timer step follows it. -/
theorem returnOnEmptyStackEnds : Obligations.ReturnOnEmptyStackEnds := by
  intro s hempty
  refine ⟨by rw [exec_eq, dispatched_ret_of_empty hempty]; rfl, fun hruns => ?_⟩
  rw [step_of_runs hruns, dispatched_ret_of_empty hempty, finish_not_completed (by simp)]
  rfl

/-- Settles O20. -/
theorem jumpSetsPc : Obligations.JumpSetsPc := fun nnn s =>
  ⟨Laws.decodeWord_encodeWord (.jp nnn), _, exec_of_no_halt rfl, rfl, toNat_zextAddr nnn, keepsAllBut_pc s _⟩

/-- Settles O21. -/
theorem callStacksOwnAddress : Obligations.CallStacksOwnAddress := fun nnn s hfree =>
  ⟨_, exec_call_of_free nnn hfree, rfl, toNat_zextAddr nnn, rfl, push_stack_getElem s.pc hfree,
    ((KeepsAllBut.refl.push (by simp) (by simp) s.pc hfree).setPc (by simp) _).completed⟩

/-- Settles O23. -/
theorem returnResumesPastNewestEntry : Obligations.ReturnResumesPastNewestEntry := by
  intro s k hsp
  refine ⟨_, exec_ret_of_inUse k hsp, rfl, ?_, ?_, ((KeepsAllBut.refl.pop (by simp)).setPc (by simp) _).completed⟩
  · simp [hsp]
  · simp [BitVec.toNat_add]

/-- Settles O25. -/
theorem skipIfEqualImmediate : Obligations.SkipIfEqualImmediate := fun x nn _ =>
  ⟨Laws.decodeWord_encodeWord (.seImm x nn), exec_skip rfl beq_iff_eq.2 beq_eq_false_iff_ne.2⟩

/-- Settles O26: one skip on three conditions. -/
theorem otherSkips : Obligations.OtherSkips := fun _ _ _ _ =>
  ⟨exec_skip rfl bne_iff_ne.2 bne_eq_false_iff_eq.2, exec_skip rfl beq_iff_eq.2 beq_eq_false_iff_ne.2,
    exec_skip rfl bne_iff_ne.2 bne_eq_false_iff_eq.2⟩

/-- Settles O27: the sum of a byte and a 12-bit address fits in 16 bits. -/
theorem jumpWithOffsetAddsV0 : Obligations.JumpWithOffsetAddsV0 := by
  intro nnn s
  refine ⟨Laws.decodeWord_encodeWord (.jpV0 nnn), _, exec_of_no_halt rfl, rfl, ?_, keepsAllBut_pc s _⟩
  have hnnn : nnn.toNat < 4096 := nnn.isLt
  have hreg : (s.reg 0).toNat < 256 := (s.reg 0).isLt
  simp only [effect, completed_pc, setPc_pc, BitVec.toNat_add, toNat_zextByte, toNat_zextAddr]
  omega

end Sys2Proof.Machine
end

section
/-! SUPPORT. The frame of a write of the register file (spec/10_state.md R20, R21). -/

namespace Sys2Proof.Safety

open Sys2Proof.Machine

theorem KeepsAllBut.setV {ps : List Piece} {s t : State} (h : KeepsAllBut ps s t) (hv : .v ∈ ps) (v : RegFile) :
    KeepsAllBut ps s (t.setV v) := by
  intro p hp
  cases p with
  | v => exact absurd hv hp
  | _ => exact h _ hp

/-- A dispatch whose writes are registers and `PC` keeps all else. -/
theorem keepsAllBut_v_pc (s : State) (v : RegFile) (w : Word) :
    KeepsAllBut [.v, .pc] s ((s.setV v).setPc w).completed :=
  ((KeepsAllBut.refl.setV (by simp) v).setPc (by simp) w).completed

end Sys2Proof.Safety
end

section
/-! SUPPORT. The flag bytes (spec/41_register_alu.md R147 to R151), the order of two register writes, and what the
dispatches of the family leave: one result, a result with its flag, or a shifted result with its flag. -/

namespace Sys2Proof.Machine

open Sys2Proof.Safety

/-! ### Flags and results as numbers -/

theorem flagByte_decide (p : Prop) [Decidable p] : flagByte (decide p) = if p then 1 else 0 := by
  simp [flagByte]

theorem toNat_flagByte (c : Bool) : (flagByte c).toNat = c.toNat := by
  cases c <;> rfl

theorem toNat_shrFlag (b : Byte) : (shrFlag b).toNat = b.toNat % 2 :=
  calc (shrFlag b).toNat = (b.toNat.testBit 0).toNat := toNat_flagByte _
    _ = b.toNat / 2 ^ 0 % 2 := Nat.toNat_testBit _ _
    _ = b.toNat % 2 := by rw [pow_zero, Nat.div_one]

theorem toNat_shlFlag (b : Byte) : (shlFlag b).toNat = b.toNat / 128 :=
  calc (shlFlag b).toNat = (b.toNat.testBit 7).toNat := toNat_flagByte _
    _ = b.toNat / 2 ^ 7 % 2 := Nat.toNat_testBit _ _
    _ = b.toNat / 128 := Nat.mod_eq_of_lt (Nat.div_lt_of_lt_mul b.isLt)

theorem toNat_byte_sub (a b : Byte) : (a - b).toNat = (a.toNat + 256 - b.toNat) % 256 := by
  have hb : b.toNat < 256 := b.isLt
  rw [BitVec.toNat_sub]
  omega

theorem toNat_byte_shiftRight_one (b : Byte) : (b >>> 1).toNat = b.toNat / 2 := by
  rw [BitVec.toNat_ushiftRight, Nat.shiftRight_eq_div_pow, pow_one]

theorem toNat_byte_shiftLeft_one (b : Byte) : (b <<< 1).toNat = b.toNat * 2 % 256 := by
  rw [BitVec.toNat_shiftLeft, Nat.shiftLeft_eq, pow_one]

/-! ### The order of two writes -/

theorem write_comm (v : RegFile) {x y : Reg} (h : x ≠ y) (a b : Byte) :
    (v.write x a).write y b = (v.write y b).write x a :=
  Vector.set_comm a b fun e => h (BitVec.eq_of_toNat_eq e)

/-! ### What a dispatch that writes registers leaves -/

variable {i : Instr} {s : State} {x y : Reg} {result flag : Byte}

/-- One result and no flag (R141 to R146, R152). -/
theorem exec_writeReg (hexec : exec i s = complete (s.setReg x result).next) :
    ∃ t, exec i s = .next t ∧ t.outcome = some .completed ∧ t.reg x = result ∧
      (∀ r, r ≠ x → t.reg r = s.reg r) ∧ t.pc = s.pc + 2 ∧ KeepsAllBut [.v, .pc] s t := by
  refine ⟨_, hexec, rfl, ?_, fun r hr => ?_, rfl, keepsAllBut_v_pc s _ _⟩
  · simp
  · simp [hr]

/-- A result and its flag, which stays where the result is not written over it (R140). -/
theorem exec_writeFlagged
    (hexec : exec i s = complete (s.setV (writeFlagged flagOrder s.v x result flag)).next) :
    ∃ t, exec i s = .next t ∧ t.outcome = some .completed ∧ t.reg x = result ∧
      (x ≠ flagReg → t.reg flagReg = flag) ∧
      (∀ r, r ≠ x → r ≠ flagReg → t.reg r = s.reg r) ∧ t.pc = s.pc + 2 ∧ KeepsAllBut [.v, .pc] s t := by
  have hread := read_writeFlagged_first s.v x result flag
  refine ⟨_, hexec, rfl, (hread x).trans ?_, fun hx => (hread flagReg).trans ?_,
    fun r hrx hrf => (hread r).trans ?_, rfl, keepsAllBut_v_pc s _ _⟩
  · exact if_pos rfl
  · rw [if_neg hx.symm, if_pos rfl]
  · rw [if_neg hrx, if_neg hrf, reg_eq]

/-- A shifted result in both registers and its flag, which stays where the result is written to neither (R149, R151). -/
theorem exec_writeShifted
    (hexec : exec i s = complete (s.setV (writeShifted flagOrder s.v x y result flag)).next) :
    ∃ t, exec i s = .next t ∧ t.outcome = some .completed ∧ t.reg x = result ∧ t.reg y = result ∧
      (x ≠ flagReg → y ≠ flagReg → t.reg flagReg = flag) ∧
      (∀ r, r ≠ x → r ≠ y → r ≠ flagReg → t.reg r = s.reg r) ∧ t.pc = s.pc + 2 ∧
      KeepsAllBut [.v, .pc] s t := by
  have hread := read_writeShifted_first s.v x y result flag
  refine ⟨_, hexec, rfl, (hread x).trans ?_, (hread y).trans ?_, fun hx hy => (hread flagReg).trans ?_,
    fun r hrx hry hrf => (hread r).trans ?_, rfl, keepsAllBut_v_pc s _ _⟩
  · exact if_pos (.inl rfl)
  · exact if_pos (.inr rfl)
  · rw [if_neg (not_or.2 ⟨hx.symm, hy.symm⟩), if_pos rfl]
  · rw [if_neg (not_or.2 ⟨hrx, hry⟩), if_neg hrf, reg_eq]

end Sys2Proof.Machine
end

section
/-! The rules about registers and arithmetic (spec/41_register_alu.md). -/

namespace Sys2Proof.Machine

open Sys2Proof.Safety

/-- Settles O28. -/
theorem loadImmediate : Obligations.LoadImmediate := fun x nn _ =>
  ⟨Laws.decodeWord_encodeWord (.ldImm x nn), exec_writeReg rfl⟩

/-- Settles O29. -/
theorem addImmediateWraps : Obligations.AddImmediateWraps := by
  intro x nn s
  refine ⟨Laws.decodeWord_encodeWord (.addImm x nn), ?_⟩
  obtain ⟨t, hexec, hdone, hx, hrest⟩ := exec_writeReg (i := .addImm x nn) (s := s) rfl
  exact ⟨t, hexec, hdone, by rw [hx, BitVec.toNat_add], hrest⟩

/-- Settles O30: each is one result without a flag, and the result is `f` on every bit. -/
theorem copyAndLogicWriteOnlyX : Obligations.CopyAndLogicWriteOnlyX := by
  intro x y s i f hi
  obtain ⟨result, hexec, hbits⟩ : ∃ result, exec i s = complete (s.setReg x result).next ∧
      ∀ k, result.getLsbD k = f ((s.reg x).getLsbD k) ((s.reg y).getLsbD k) := by
    obtain ⟨rfl, hf⟩ | ⟨rfl, hf⟩ | ⟨rfl, hf⟩ | ⟨rfl, hf⟩ := hi
    · exact ⟨_, rfl, fun k => (hf _ _).symm⟩
    · exact ⟨_, rfl, fun k => by rw [hf, BitVec.getLsbD_or]⟩
    · exact ⟨_, rfl, fun k => by rw [hf, BitVec.getLsbD_and]⟩
    · exact ⟨_, rfl, fun k => by rw [hf, BitVec.getLsbD_xor]⟩
  obtain ⟨t, ht, hdone, hx, hrest⟩ := exec_writeReg hexec
  exact ⟨t, ht, hdone, fun k _ => by rw [hx, hbits], hrest⟩

/-- Settles O31. -/
theorem addSetsSumAndCarry : Obligations.AddSetsSumAndCarry := by
  intro x y s
  obtain ⟨t, hexec, hdone, hx, hflag, hrest⟩ := exec_writeFlagged (i := .addReg x y) (s := s) rfl
  exact ⟨t, hexec, hdone, by rw [hx, BitVec.toNat_add], fun hne => (hflag hne).trans (flagByte_decide _), hrest⟩

/-- Settles O32. -/
theorem subtractsSetDifferenceAndNoBorrow : Obligations.SubtractsSetDifferenceAndNoBorrow := by
  intro x y s
  constructor
  · obtain ⟨t, hexec, hdone, hx, hflag, hrest⟩ := exec_writeFlagged (i := .subReg x y) (s := s) rfl
    exact ⟨t, hexec, hdone, by rw [hx, toNat_byte_sub], fun hne => (hflag hne).trans (flagByte_decide _), hrest⟩
  · obtain ⟨t, hexec, hdone, hx, hflag, hrest⟩ := exec_writeFlagged (i := .subn x y) (s := s) rfl
    exact ⟨t, hexec, hdone, by rw [hx, toNat_byte_sub], fun hne => (hflag hne).trans (flagByte_decide _), hrest⟩

/-- Settles O33: under `SHIFT_SRC = Vy` both shifts read `V[y]`. -/
theorem shiftsWriteBothRegisters : Obligations.ShiftsWriteBothRegisters := by
  intro x y s
  constructor
  · obtain ⟨t, hexec, hdone, hx, hy, hflag, hrest⟩ := exec_writeShifted (i := .shr x y) (s := s)
      (result := s.reg y >>> 1) (flag := shrFlag (s.reg y)) rfl
    exact ⟨t, hexec, hdone, by rw [hx, toNat_byte_shiftRight_one], by rw [hy, toNat_byte_shiftRight_one],
      fun hnx hny => by rw [hflag hnx hny, toNat_shrFlag], hrest⟩
  · obtain ⟨t, hexec, hdone, hx, hy, hflag, hrest⟩ := exec_writeShifted (i := .shl x y) (s := s)
      (result := s.reg y <<< 1) (flag := shlFlag (s.reg y)) rfl
    exact ⟨t, hexec, hdone, by rw [hx, toNat_byte_shiftLeft_one], by rw [hy, toNat_byte_shiftLeft_one],
      fun hnx hny => by rw [hflag hnx hny, toNat_shlFlag], hrest⟩

/-- Settles O34. -/
theorem randomIsMaskedInput : Obligations.RandomIsMaskedInput := by
  intro x nn s
  refine ⟨fun k r rest hs => by simp [State.rnd, hs], ?_⟩
  obtain ⟨t, hexec, hdone, hx, hrest⟩ := exec_writeReg (i := .rnd x nn) (s := s) rfl
  exact ⟨t, hexec, hdone, fun k _ => by rw [hx, BitVec.getLsbD_and], hrest⟩

/-- Settles O56: the flag's write passes a write of the result to any register but `VF`. -/
theorem flagOrdersAgreeOffVF : Obligations.FlagOrdersAgreeOffVF := by
  intro v x y result flag hx
  refine ⟨write_comm v hx result flag, fun hy => ?_⟩
  calc writeShifted .flagLast v x y result flag
      = ((v.write y result).write flagReg flag).write x result := write_comm _ hx result flag
    _ = writeShifted .flagFirst v x y result flag := by rw [write_comm v hy, writeShifted]

end Sys2Proof.Machine
end

section
/-! SUPPORT. The frame of a write of the framebuffer (spec/10_state.md R20, R33, R34). -/

namespace Sys2Proof.Safety

open Sys2Proof.Machine

theorem KeepsAllBut.setFb {ps : List Piece} {s t : State} (h : KeepsAllBut ps s t) (hfb : .fb ∈ ps)
    (hreq : .redrawReq ∈ ps) (fb : Framebuffer) : KeepsAllBut ps s (t.setFb fb) := by
  intro p hp
  cases p with
  | fb => exact absurd hfb hp
  | redrawReq => exact absurd hreq hp
  | _ => exact h _ hp

end Sys2Proof.Safety
end

section
/-! SUPPORT. What a sprite drawn under `wrap` leaves (spec/42_display.md R171 to R174). The pixels are told apart by their
offsets from the sprite's position, so that the framebuffer's edges play no part after `eq_ofNat_add_iff_colOffset` and
`eq_ofNat_add_iff_rowOffset`; no two pixels of a sprite share a cell, so each step of the drawing toggles cells that no
other step toggles. -/

namespace Sys2Proof.Machine

open Sys2Proof.Safety

/-! ### Offsets from the sprite's position -/

/-- How many columns the column `x` lies to the right of `x0`, both taken around the edge (R173). -/
def colOffset (x0 : Nat) (x : Fin 64) : Nat := (x.val + 64 - x0 % 64) % 64

/-- How many rows the row `y` lies below `y0`, both taken around the edge (R173). -/
def rowOffset (y0 : Nat) (y : Fin 32) : Nat := (y.val + 32 - y0 % 32) % 32

theorem eq_ofNat_add_iff_colOffset {x0 c : Nat} {x : Fin 64} (hc : c < 64) :
    x = Fin.ofNat 64 (x0 + c) ↔ colOffset x0 x = c := by
  rw [Fin.ext_iff, Fin.val_ofNat, colOffset]
  omega

theorem eq_ofNat_add_iff_rowOffset {y0 r : Nat} {y : Fin 32} (hr : r < 32) :
    y = Fin.ofNat 32 (y0 + r) ↔ rowOffset y0 y = r := by
  rw [Fin.ext_iff, Fin.val_ofNat, rowOffset]
  omega

theorem spriteBit_iff {m : Memory} {i : Word} {x0 y0 n : Nat} {x : Fin 64} {y : Fin 32} :
    spriteBit m i x0 y0 n x y = true ↔ colOffset x0 x < 8 ∧ rowOffset y0 y < n ∧
      (memGet m (i.toNat + rowOffset y0 y)).getLsbD (7 - colOffset x0 x) = true := by
  simp only [spriteBit, Bool.and_eq_true, decide_eq_true_eq, and_assoc, colOffset, rowOffset]

/-! ### A part of a drawing -/

theorem xor_ne_self_iff {a b : Bool} : (a ^^ b) ≠ a ↔ b = true := by
  cases a <;> simp

/-- A cell that changes exactly under a 1 is the exclusive or. -/
theorem eq_xor_of_ne_iff {a b c : Bool} (h : c ≠ a ↔ b = true) : c = (a ^^ b) := by
  cases b <;> simpa [Bool.eq_not] using h

/-- The canvas `cv'` comes from `cv` by toggling exactly the cells whose offsets from `(x0, y0)` are in `p`, and a collision
is a cell of 1 among them (R171). -/
structure Draws (x0 y0 : Nat) (p : Nat → Nat → Prop) (cv cv' : Canvas) : Prop where
  toggled : ∀ x y, cv'.fb.cell x y ≠ cv.fb.cell x y ↔ p (colOffset x0 x) (rowOffset y0 y)
  hit_iff : cv'.hit = true ↔
    cv.hit = true ∨ ∃ x y, p (colOffset x0 x) (rowOffset y0 y) ∧ cv.fb.cell x y = true

variable {x0 y0 : Nat} {p q d : Nat → Nat → Prop} {cv cv' cv'' : Canvas}

theorem Draws.none (hp : ∀ k j, ¬ p k j) : Draws x0 y0 p cv cv where
  toggled x y := by simp [hp]
  hit_iff := by simp [hp]

/-- A cell outside a part of a drawing is as before. -/
theorem Draws.cell_eq (h : Draws x0 y0 p cv cv') {x : Fin 64} {y : Fin 32}
    (hp : ¬ p (colOffset x0 x) (rowOffset y0 y)) : cv'.fb.cell x y = cv.fb.cell x y :=
  not_not.1 (mt (h.toggled x y).1 hp)

/-- Two parts of a drawing that share no cell are one: the second meets its own cells as the first found them. -/
theorem Draws.trans (h : Draws x0 y0 p cv cv') (h' : Draws x0 y0 q cv' cv'') (hdisjoint : ∀ k j, p k j → ¬ q k j)
    (hunion : ∀ k j, d k j ↔ p k j ∨ q k j) : Draws x0 y0 d cv cv'' where
  toggled x y := by
    rw [hunion]
    by_cases hp : p (colOffset x0 x) (rowOffset y0 y)
    · rw [h'.cell_eq (hdisjoint _ _ hp), h.toggled, or_iff_left (hdisjoint _ _ hp)]
    · rw [← h.cell_eq hp, h'.toggled, or_iff_right hp]
  hit_iff := by
    have hq : ∀ x y, q (colOffset x0 x) (rowOffset y0 y) → cv'.fb.cell x y = cv.fb.cell x y :=
      fun x y hq => h.cell_eq fun hp => hdisjoint _ _ hp hq
    simp only [h'.hit_iff, h.hit_iff, hunion, or_and_right, exists_or, or_assoc]
    refine or_congr_right (or_congr_right (exists_congr fun x => exists_congr fun y => ?_))
    exact and_congr_right fun hxy => by rw [hq x y hxy]

/-! ### A pixel, a row, the rows -/

theorem draws_pixel {r c : Nat} (hr : r < 32) (hc : c < 64) (bit : Bool) :
    Draws x0 y0 (fun k j => k = c ∧ j = r ∧ bit = true) cv
      (if bit then cv.plot (pixelCell .wrap x0 y0 r c) else cv) := by
  cases bit with
  | false => exact .none (by simp)
  | true =>
    constructor
    · intro x y
      simp only [if_true, pixelCell_wrap, plot_some, cell_toggle, xor_ne_self_iff, decide_eq_true_eq,
        eq_ofNat_add_iff_colOffset hc, eq_ofNat_add_iff_rowOffset hr, and_true]
    · simp [← eq_ofNat_add_iff_colOffset hc, ← eq_ofNat_add_iff_rowOffset hr]

/-- The pixels of one sprite row are the 1 bits of its byte, bit 7 leftmost (R171, R172). -/
theorem draws_drawPixels {r : Nat} (hr : r < 32) (b : Byte) (c left : Nat) (h : c + left ≤ 64) (cv : Canvas) :
    Draws x0 y0 (fun k j => j = r ∧ c ≤ k ∧ k < c + left ∧ b.getLsbD (7 - k) = true) cv
      (drawPixels .wrap x0 y0 r b c left cv) := by
  induction left generalizing c cv with
  | zero => exact .none (by omega)
  | succ left ih =>
    refine (draws_pixel hr (by omega) (b.getLsbD (7 - c))).trans (ih (c + 1) (by omega) _) (by omega) fun k j => ?_
    by_cases hk : k = c
    · subst hk
      simp
    · have hle : c ≤ k ↔ c + 1 ≤ k := by omega
      simp [hk, hle, Nat.add_assoc, Nat.add_comm 1 left]

/-- The rows of a sprite, the byte at index `j` in the row `j` below its position (R171). -/
theorem draws_drawRows (r : Nat) (rows : List Byte) (h : r + rows.length ≤ 32) (cv : Canvas) :
    Draws x0 y0 (fun k j => k < 8 ∧ r ≤ j ∧ ∃ b, rows[j - r]? = some b ∧ b.getLsbD (7 - k) = true) cv
      (drawRows .wrap x0 y0 r rows cv) := by
  induction rows generalizing r cv with
  | nil => exact .none (by simp)
  | cons b rest ih =>
    rw [List.length_cons] at h
    refine (draws_drawPixels (by omega) b 0 8 (by omega) cv).trans (ih (r + 1) (by omega) _) (by omega) fun k j => ?_
    rcases Nat.lt_trichotomy j r with hj | rfl | hj
    · omega
    · simp
    · obtain ⟨e, rfl⟩ := Nat.exists_eq_add_of_lt hj
      have hnext : r + (e + 1) - (r + 1) = e := by omega
      simp [hnext, Nat.add_assoc]

/-! ### The canvas that `DRW` leaves -/

variable (x y : Reg) (n : Nibble) (s : State)

/-- `DRW` draws its sprite's 1 bits on the framebuffer (R171 to R173). -/
theorem draws_drawn :
    Draws (s.reg x).toNat (s.reg y).toNat
      (fun k j => k < 8 ∧ j < n.toNat ∧ (memGet s.mem (s.i.toNat + j)).getLsbD (7 - k) = true)
      { fb := s.fb, hit := false } (drawn dataOob drawEdge x y n s) := by
  have hn : n.toNat < 16 := n.isLt
  have h := draws_drawRows (x0 := (s.reg x).toNat) (y0 := (s.reg y).toNat) 0
    (loadBytes dataOob s.i s.mem 0 n.toNat) (by rw [length_loadBytes]; omega) { fb := s.fb, hit := false }
  simpa [getElem?_loadBytes, drawn, drawSprite, drawEdge, dataOob, dataAddr] using h

/-- Each cell is toggled exactly where the sprite has a 1 bit for it (R171). -/
theorem drawn_cell (cx : Fin 64) (cy : Fin 32) :
    (drawn dataOob drawEdge x y n s).fb.cell cx cy =
      (s.fb.cell cx cy ^^ spriteBit s.mem s.i (s.reg x).toNat (s.reg y).toNat n.toNat cx cy) :=
  eq_xor_of_ne_iff (((draws_drawn x y n s).toggled cx cy).trans spriteBit_iff.symm)

/-- A collision is a 1 bit on a cell of 1 (R171). -/
theorem drawn_hit_iff : (drawn dataOob drawEdge x y n s).hit = true ↔
    ∃ cx cy, spriteBit s.mem s.i (s.reg x).toNat (s.reg y).toNat n.toNat cx cy = true ∧ s.fb.cell cx cy = true := by
  simp only [(draws_drawn x y n s).hit_iff, spriteBit_iff, Bool.false_eq_true, false_or]

theorem collisionFlag_eq_one_iff (hit : Bool) : collisionFlag hit = 1 ↔ hit = true := by
  cases hit <;> decide

variable {x y n s}

/-- `DRW` with its rows in memory completes with the canvas drawn and the collision in `VF` (R171). -/
theorem exec_drw_in_range (h : n.toNat = 0 ∨ s.i.toNat + n.toNat ≤ 4096) :
    exec (.drw x y n) s = .next ((s.setFb (drawn dataOob drawEdge x y n s).fb).setReg flagReg
      (collisionFlag (drawn dataOob drawEdge x y n s).hit)).next.completed :=
  completeAccess_in_range h

/-- What a `DRW` with its rows in memory leaves of the pieces that a next `DRW` reads, and its flag. -/
theorem exec_drw_leaves {t : State} (h : n.toNat = 0 ∨ s.i.toNat + n.toNat ≤ 4096)
    (ht : exec (.drw x y n) s = .next t) :
    t.mem = s.mem ∧ t.i = s.i ∧
    (∀ cx cy, t.fb.cell cx cy =
      (s.fb.cell cx cy ^^ spriteBit s.mem s.i (s.reg x).toNat (s.reg y).toNat n.toNat cx cy)) ∧
    (t.reg flagReg = 1 ↔ ∃ cx cy,
      spriteBit s.mem s.i (s.reg x).toNat (s.reg y).toNat n.toNat cx cy = true ∧ s.fb.cell cx cy = true) := by
  cases (exec_drw_in_range h).symm.trans ht
  refine ⟨rfl, rfl, drawn_cell x y n s, ?_⟩
  rw [← drawn_hit_iff, ← collisionFlag_eq_one_iff]
  simp

end Sys2Proof.Machine
end

section
/-! SUPPORT. Inside the window no pixel of a sprite passes an edge, so that `clip` drops none (spec/42_display.md R173). -/

namespace Sys2Proof.Machine

variable {x0 y0 : Nat}

theorem pixelCell_clip_eq_wrap {r c : Nat} (hc : x0 + c ≤ 63) (hr : y0 + r ≤ 31) :
    pixelCell .clip x0 y0 r c = pixelCell .wrap x0 y0 r c :=
  if_neg (by omega)

theorem drawPixels_clip_eq_wrap {r : Nat} (hr : y0 + r ≤ 31) (b : Byte) (c left : Nat) (h : x0 + c + left ≤ 64)
    (cv : Canvas) : drawPixels .clip x0 y0 r b c left cv = drawPixels .wrap x0 y0 r b c left cv := by
  induction left generalizing c cv with
  | zero => rfl
  | succ left ih =>
    rw [drawPixels, drawPixels, pixelCell_clip_eq_wrap (by omega) hr, ih (c + 1) (by omega)]

theorem drawRows_clip_eq_wrap (hx : x0 ≤ 56) (r : Nat) (rows : List Byte) (h : y0 + r + rows.length ≤ 32)
    (cv : Canvas) : drawRows .clip x0 y0 r rows cv = drawRows .wrap x0 y0 r rows cv := by
  induction rows generalizing r cv with
  | nil => rfl
  | cons b rest ih =>
    rw [List.length_cons] at h
    rw [drawRows, drawRows, drawPixels_clip_eq_wrap (by omega) b 0 8 (by omega), ih (r + 1) (by omega)]

end Sys2Proof.Machine
end

section
/-! The rules about the display (spec/42_display.md). -/

namespace Sys2Proof.Machine

open Sys2Proof.Safety

/-- Settles O35. -/
theorem clearScreen : Obligations.ClearScreen := fun s =>
  ⟨Laws.decodeWord_encodeWord .cls, _, exec_of_no_halt rfl, rfl, cell_blank, rfl, rfl,
    ((KeepsAllBut.refl.setFb (by simp) (by simp) Framebuffer.blank).setPc (by simp) (s.pc + 2)).completed⟩

/-- Settles O36: `V[X]` and `V[Y]` are read before `VF` is written, so `X` or `Y` 15 is no case of its own. -/
theorem drawTogglesExactlySpriteBits : Obligations.DrawTogglesExactlySpriteBits := by
  intro x y n s h
  refine ⟨_, exec_drw_in_range h, rfl, drawn_cell x y n s, fun hcollides => ?_, fun hclear => ?_, rfl, fun r hr => ?_, rfl,
    (((KeepsAllBut.refl.setFb (by simp) (by simp) _).setV (by simp) _).setPc (by simp) _).completed⟩
  · have hhit := (drawn_hit_iff x y n s).2 hcollides
    simp [(collisionFlag_eq_one_iff _).2 hhit]
  · have hhit : (drawn dataOob drawEdge x y n s).hit = false := by
      rw [Bool.eq_false_iff, Ne, drawn_hit_iff]
      rintro ⟨cx, cy, hbit, hcell⟩
      simp [hclear cx cy hbit] at hcell
    simp [hhit, collisionFlag, flagByte]
  · simp [hr]

/-- Settles O37: both draws toggle the same cells, and the second meets a 1 under its 1 bit where the first set it. -/
theorem doubleDrawRestores : Obligations.DoubleDrawRestores := by
  intro x y n s t u h ht hx hy hu
  obtain ⟨hmem, hi, htcell, -⟩ := exec_drw_leaves h ht
  obtain ⟨-, -, hucell, hflag⟩ := exec_drw_leaves (by rwa [hi]) hu
  simp only [hmem, hi, hx, hy] at hucell hflag
  refine ⟨fun cx cy => ?_, hflag.trans (exists_congr fun cx => exists_congr fun cy => ?_)⟩
  · rw [hucell, htcell, Bool.xor_assoc, Bool.xor_self, Bool.xor_false]
  · rw [htcell]
    cases s.fb.cell cx cy <;> simp

/-- Settles O38. -/
theorem drawEdgesAgreeInWindow : Obligations.DrawEdgesAgreeInWindow := fun _ _ rows fb hx hy =>
  drawRows_clip_eq_wrap hx 0 rows hy { fb := fb, hit := false }

end Sys2Proof.Machine
end

section
/-! SUPPORT. The frame of a write of a timer (spec/10_state.md R20, R31, R32). -/

namespace Sys2Proof.Safety

open Sys2Proof.Machine

variable {ps : List Piece} {s t : State}

theorem KeepsAllBut.setDt (h : KeepsAllBut ps s t) (hdt : .dt ∈ ps) (b : Byte) : KeepsAllBut ps s (t.setDt b) := by
  intro p hp
  cases p with
  | dt => exact absurd hdt hp
  | _ => exact h _ hp

theorem KeepsAllBut.setSt (h : KeepsAllBut ps s t) (hst : .st ∈ ps) (b : Byte) : KeepsAllBut ps s (t.setSt b) := by
  intro p hp
  cases p with
  | st => exact absurd hst hp
  | _ => exact h _ hp

end Sys2Proof.Safety
end

section
/-! SUPPORT. The key predicate, the two ways of `LD Vx,K`, and the count of a timer as a number
(spec/43_keypad_timers.md R180, R184; spec/60_exceptions.md R222). -/

namespace Sys2Proof.Machine

open Sys2Proof.Safety

@[simp] theorem toNat_zextKey (k : Nibble) : (zextKey k).toNat = k.toNat := by
  have hk : k.toNat < 16 := k.isLt
  rw [zextKey, BitVec.toNat_setWidth]
  omega

variable {key : Option Nibble} {v : Byte} {s : State}

theorem pressed_eq_true_iff : pressed key v = true ↔ ∃ k, key = some k ∧ k.toNat = v.toNat := by
  cases key with
  | none => simp [pressed]
  | some k =>
    have hk : zextKey k = v ↔ k.toNat = v.toNat := by rw [← BitVec.toNat_inj, toNat_zextKey]
    simp [pressed, hk]

theorem pressed_eq_false_iff : pressed key v = false ↔ ∀ k, key = some k → k.toNat ≠ v.toNat := by
  simp only [← Bool.not_eq_true, pressed_eq_true_iff, not_exists, not_and, Ne]

theorem exec_ldVxK_of_key (x : Reg) {k : Nibble} (h : s.key = some k) :
    exec (.ldVxK x) s = complete (s.setReg x (zextKey k)).next := by
  simp only [exec, execLdVxK, keyTaken, h, complete]

theorem dispatched_ldVxK_of_no_key (x : Reg) (h : s.key = none) : dispatched (.ldVxK x) s = s.waiting :=
  dispatched_of_halt (k := .waiting) (if_pos h)

/-- A timer counts down to 0 and stays there (R222). -/
theorem toNat_countDown (b : Byte) : (if b = 0 then 0 else b - 1).toNat = b.toNat - 1 := by
  split <;> bv_omega

/-- An instruction that waited runs again where the host's next move is a tick. -/
theorem runs_again_of_waiting {i : Instr} (h : Runs s i) (hnext : nextIsTick s.schedule.tail = true) :
    Runs s.waiting.endTick i :=
  { h with ticked := hnext }

end Sys2Proof.Machine
end

section
/-! The rules about the keypad and the timers (spec/43_keypad_timers.md). -/

namespace Sys2Proof.Machine

open Sys2Proof.Safety

/-- Settles O39: one skip on the key predicate, and one on its negation. -/
theorem keySkips : Obligations.KeySkips := by
  intro x s
  refine ⟨fun k r rest hs => by simp [State.key, hs],
    exec_skip (i := .skp x) rfl pressed_eq_true_iff.2 pressed_eq_false_iff.2, ?_⟩
  obtain ⟨t, hexec, hdone, hother, hsame, hrest⟩ := exec_skip (i := .sknp x) (s := s) rfl
    (fun h => congrArg not (pressed_eq_false_iff.2 h)) (fun h => congrArg not (pressed_eq_true_iff.2 h))
  exact ⟨t, hexec, hdone, hsame, hother, hrest⟩

/-- Settles O40: with a key it is a write of one register. -/
theorem keyWaitTakesKey : Obligations.KeyWaitTakesKey := by
  intro x s k hkey
  obtain ⟨t, hexec, hdone, hx, hrest⟩ := exec_writeReg (exec_ldVxK_of_key x hkey)
  exact ⟨t, hexec, hdone, by rw [hx, toNat_zextKey], hrest⟩

/-- Settles O41: a waiting dispatch is no completed one, so that no timer step follows it. -/
theorem keyWaitIsNullCycle : Obligations.KeyWaitIsNullCycle := by
  intro x s hkey
  have hwait : dispatched (.ldVxK x) s = s.waiting := dispatched_ldVxK_of_no_key x hkey
  refine ⟨by rw [exec_eq, hwait]; rfl, fun hruns => ⟨s.waiting.endTick, ?_, rfl, runs_again_of_waiting hruns⟩⟩
  rw [step_of_runs hruns, hwait, finish_not_completed (by simp)]

/-- Settles O42: the dispatch copies `DT` and leaves it, and the step of the completed tick counts it down. -/
theorem readDelayTimer : Obligations.ReadDelayTimer := by
  intro x s
  refine ⟨Laws.decodeWord_encodeWord (.ldVxDt x), exec_writeReg rfl, fun hruns => ?_⟩
  refine ⟨(s.setReg x s.dt).next.completed.timerStep.endTick, ?_, by simp, toNat_countDown s.dt⟩
  rw [step_of_runs hruns, dispatched_of_no_halt rfl, finish_completed rfl, effect]

/-- Settles O43. -/
theorem setTimers : Obligations.SetTimers := fun _ _ =>
  ⟨⟨_, exec_of_no_halt rfl, rfl, rfl, rfl, ((KeepsAllBut.refl.setDt (by simp) _).setPc (by simp) _).completed⟩,
    _, exec_of_no_halt rfl, rfl, rfl, rfl, ((KeepsAllBut.refl.setSt (by simp) _).setPc (by simp) _).completed⟩

end Sys2Proof.Machine
end

section
/-! SUPPORT. The frame of a write of `I` and of a write of memory (spec/10_state.md R20, R28; spec/20_memory.md R61). -/

namespace Sys2Proof.Safety

open Sys2Proof.Machine

variable {ps : List Piece} {s t : State}

theorem KeepsAllBut.setI (h : KeepsAllBut ps s t) (hi : .i ∈ ps) (w : Word) : KeepsAllBut ps s (t.setI w) := by
  intro p hp
  cases p with
  | i => exact absurd hi hp
  | _ => exact h _ hp

theorem KeepsAllBut.setMem (h : KeepsAllBut ps s t) (hmem : .mem ∈ ps) (m : Memory) :
    KeepsAllBut ps s (t.setMem m) := by
  intro p hp
  cases p with
  | mem => exact absurd hmem hp
  | _ => exact h _ hp

/-- A dispatch whose writes are `I` and `PC` keeps all else. -/
theorem keepsAllBut_i_pc (s : State) (i pc : Word) : KeepsAllBut [.i, .pc] s ((s.setI i).setPc pc).completed :=
  ((KeepsAllBut.refl.setI (by simp) i).setPc (by simp) pc).completed

end Sys2Proof.Safety
end

section
/-! SUPPORT. The values that go to `I`, the decimal digits of a byte, and what a block transfer in range leaves at each
address and in each register (spec/44_index_memory.md R202 to R206). -/

namespace Sys2Proof.Machine

open Sys2Proof.Safety

/-! ### The values as numbers -/

/-- Five bytes a glyph, all 8 bits of the value taking part (R202, decision D28): the product does not wrap. -/
theorem toNat_glyphAddr (b : Byte) : (glyphAddr b).toNat = b.toNat * 5 := by
  have hb : b.toNat < 256 := b.isLt
  have hmul : (glyphAddr b).toNat = b.toNat * 5 % 65536 := by
    rw [glyphAddr, BitVec.toNat_mul, toNat_zextByte]; rfl
  omega

/-- The index register after a block transfer in range (decision D32): the sum does not wrap. -/
theorem toNat_index_moved {i : Word} {x : Reg} (h : i.toNat + x.toNat ≤ 0xFFF) :
    (i + BitVec.ofNat 16 (regCount x)).toNat = i.toNat + x.toNat + 1 := by
  rw [BitVec.toNat_add, BitVec.toNat_ofNat, regCount]
  omega

theorem toNat_bcdHundreds (b : Byte) : (bcdHundreds b).toNat = b.toNat / 100 := by
  have hb : b.toNat < 256 := b.isLt
  rw [bcdHundreds, BitVec.toNat_ofNat]
  omega

theorem toNat_bcdTens (b : Byte) : (bcdTens b).toNat = b.toNat / 10 % 10 := by
  rw [bcdTens, BitVec.toNat_ofNat]
  omega

theorem toNat_bcdUnits (b : Byte) : (bcdUnits b).toNat = b.toNat % 10 := by
  rw [bcdUnits, BitVec.toNat_ofNat]
  omega

/-! ### A block stored from `I` on -/

section
variable {i : Word} {bs : List Byte} {m : Memory}

theorem memGet_storeBytes_inside (hm : m.wf) (h : i.toNat + bs.length ≤ 4096) (k : Fin bs.length) :
    memGet (storeBytes .fault i 0 bs m) (i.toNat + k.val) = bs[k.val] := by
  simp [memGet_storeBytes i 0 bs hm h]

theorem memGet_storeBytes_outside (hm : m.wf) (h : i.toNat + bs.length ≤ 4096) {a : Nat}
    (ha : ∀ k, k < bs.length → a ≠ i.toNat + k) : memGet (storeBytes .fault i 0 bs m) a = memGet m a := by
  rw [memGet_storeBytes i 0 bs hm h, Nat.add_zero]
  split
  · next hle =>
    have hbeyond : bs.length ≤ a - i.toNat := not_lt.1 fun hk => ha _ hk (by omega)
    rw [List.getElem?_eq_none hbeyond, Option.getD_none]
  · rfl

end

/-! ### The dispatches that transfer blocks -/

variable {i : Instr} {s : State}

theorem exec_access_in_range (hn : 0 < accessCount i) (h : s.i.toNat + accessCount i ≤ 4096) :
    exec i s = .next (effect i s).completed := by
  rw [exec_eq, dispatched_access_in_range hn h]

theorem memGet_effect_storeRegs_outside {x : Reg} (hm : s.mem.wf) (h : s.i.toNat + x.toNat ≤ 0xFFF) {a : Nat}
    (ha : ∀ r : Reg, r.toNat ≤ x.toNat → a ≠ s.i.toNat + r.toNat) :
    memGet (effect (.storeRegs x) s).mem a = memGet s.mem a := by
  have hlen : (regBytes s.v 0 (regCount x)).length = x.toNat + 1 := length_regBytes ..
  have hx : x.toNat < 16 := x.isLt
  refine memGet_storeBytes_outside hm (by omega) fun k hk => ?_
  exact ha (BitVec.ofNatLT k (by omega)) (by rw [BitVec.toNat_ofNatLT]; omega)

theorem reg_effect_loadRegs {x r : Reg} (hr : r.toNat ≤ x.toNat) :
    (effect (.loadRegs x) s).reg r = memGet s.mem (s.i.toNat + r.toNat) := by
  have hlen : 0 + (loadBytes dataOob s.i s.mem 0 (regCount x)).length ≤ 16 := by
    rw [length_loadBytes, Nat.zero_add]
    exact x.isLt
  have hcount : r.toNat < regCount x := Nat.lt_succ_of_le hr
  calc (effect (.loadRegs x) s).reg r
      = (writeRegs 0 (loadBytes dataOob s.i s.mem 0 (regCount x)) s.v).read r := rfl
    _ = ((loadBytes dataOob s.i s.mem 0 (regCount x))[r.toNat]?).getD (s.v.read r) := by
      rw [read_writeRegs 0 _ s.v hlen, if_pos (Nat.zero_le _), Nat.sub_zero]
    _ = memGet s.mem (dataAddr dataOob s.i r.toNat) := by
      rw [getElem?_loadBytes, if_pos hcount, Nat.zero_add, Option.getD_some]

/-- The numbers that `BCD Vx` leaves at its three addresses (R205). -/
theorem toNat_memGet_effect_bcd {x : Reg} (hm : s.mem.wf) (h : s.i.toNat + 2 ≤ 0xFFF) :
    (memGet (effect (.bcd x) s).mem (s.i.toNat + 0)).toNat = (s.reg x).toNat / 100 ∧
    (memGet (effect (.bcd x) s).mem (s.i.toNat + 1)).toNat = (s.reg x).toNat / 10 % 10 ∧
    (memGet (effect (.bcd x) s).mem (s.i.toNat + 2)).toNat = (s.reg x).toNat % 10 := by
  have hstored := memGet_storeBytes_inside
    (bs := [bcdHundreds (s.reg x), bcdTens (s.reg x), bcdUnits (s.reg x)]) hm (Nat.succ_le_succ h)
  exact ⟨(congrArg _ (hstored 0)).trans (toNat_bcdHundreds _), (congrArg _ (hstored 1)).trans (toNat_bcdTens _),
    (congrArg _ (hstored 2)).trans (toNat_bcdUnits _)⟩

theorem memGet_effect_bcd_outside {x : Reg} (hm : s.mem.wf) (h : s.i.toNat + 2 ≤ 0xFFF) {a : Nat}
    (ha : ∀ k, k < 3 → a ≠ s.i.toNat + k) : memGet (effect (.bcd x) s).mem a = memGet s.mem a :=
  memGet_storeBytes_outside (bs := [_, _, _]) hm (Nat.succ_le_succ h) ha

end Sys2Proof.Machine
end

section
/-! The rules about the index register and memory transfer (spec/44_index_memory.md). -/

namespace Sys2Proof.Machine

open Sys2Proof.Safety

/-- Settles O44. -/
theorem loadIndex : Obligations.LoadIndex := fun nnn s =>
  ⟨Laws.decodeWord_encodeWord (.ldI nnn), _, exec_of_no_halt rfl, rfl, toNat_zextAddr nnn, rfl,
    keepsAllBut_i_pc s _ _⟩

/-- Settles O45. -/
theorem indexArithmetic : Obligations.IndexArithmetic := by
  intro x s
  have hsum : (s.i + zextByte (s.reg x)).toNat = (s.i.toNat + (s.reg x).toNat) % 65536 := by
    rw [BitVec.toNat_add, toNat_zextByte]
  exact ⟨⟨_, exec_of_no_halt rfl, rfl, hsum, rfl, keepsAllBut_i_pc s _ _⟩,
    _, exec_of_no_halt rfl, rfl, toNat_glyphAddr _, rfl, keepsAllBut_i_pc s _ _⟩

/-- Settles O46. -/
theorem storeRegistersInOrder : Obligations.StoreRegistersInOrder := by
  intro x s hm h
  have hexec := exec_access_in_range (i := .storeRegs x) (s := s) (Nat.succ_pos _) (Nat.succ_le_succ h)
  exact ⟨_, hexec, rfl, fun r hr => ⟨rfl, memGet_effect_storeRegs hm h hr⟩,
    fun a ha => memGet_effect_storeRegs_outside hm h ha, toNat_index_moved h, rfl,
    (((KeepsAllBut.refl.setMem (by simp) _).setI (by simp) _).setPc (by simp) _).completed⟩

/-- Settles O47: the registers above `X` are no destinations of the load. -/
theorem loadRegistersInOrder : Obligations.LoadRegistersInOrder := by
  intro x s h
  have hexec := exec_access_in_range (i := .loadRegs x) (s := s) (Nat.succ_pos _) (Nat.succ_le_succ h)
  exact ⟨_, hexec, rfl, fun r hr => reg_effect_loadRegs hr,
    fun r hr => effect_reg (i := .loadRegs x) (by simpa [namesDest] using hr) (by simp [writesFlag]),
    toNat_index_moved h, rfl,
    (((KeepsAllBut.refl.setV (by simp) _).setI (by simp) _).setPc (by simp) _).completed⟩

/-- Settles O48: the three bytes are the decimal digits of `V[X]`, each at its place. -/
theorem bcdStoresThreeDigits : Obligations.BcdStoresThreeDigits := by
  intro x s hm h
  have hexec := exec_access_in_range (i := .bcd x) (s := s) (Nat.succ_pos _) (Nat.succ_le_succ h)
  obtain ⟨hhundreds, htens, hunits⟩ := toNat_memGet_effect_bcd (x := x) hm h
  refine ⟨_, hexec, rfl, ?_, ?_, ?_, fun _ _ => rfl, fun a ha => memGet_effect_bcd_outside hm h ha, rfl,
    ((KeepsAllBut.refl.setMem (by simp) _).setPc (by simp) _).completed⟩
  all_goals simp only [completed_mem, dataAddr, dataOob, hhundreds, htens, hunits]; omega

end Sys2Proof.Machine
end

section
/-! SUPPORT. Under which condition a dispatch stops short in each way, and the timers it leaves where it completes
(spec/60_exceptions.md R220 to R227, R232). -/

namespace Sys2Proof.Machine

open Sys2Proof.Safety

variable {i : Instr} {s : State} {k : Halt}

/-- The ways an instruction's dispatch stops short, each with its condition; `HaltsBy.of_haltOf` says that there are no
others. -/
inductive HaltsBy : Instr → State → Halt → Prop
  | noKey (x : Reg) (s : State) (hkey : s.key = none) : HaltsBy (.ldVxK x) s .waiting
  | emptyStack (s : State) (hsp : s.sp.val = 0) : HaltsBy .ret s .ended
  | fullStack (nnn : Addr12) (s : State) (hsp : s.sp.val = 16) :
    HaltsBy (.call nnn) s (.fault (.callStackOverflow s.pc))
  | dataPastEnd (i : Instr) (s : State) (hn : 0 < accessCount i) (hend : 0xFFF < s.i.toNat + accessCount i - 1) :
    HaltsBy i s (.fault (.dataAddressRange (max s.i.toNat 0x1000)))

/-- The bound of R68 faults exactly where some byte is accessed above 0xFFF (decision D6). -/
theorem dataFault_eq_some_iff {w : Word} {n : Nat} {e : Exc} :
    dataFault .fault w n = some e ↔
      (0 < n ∧ 0xFFF < w.toNat + n - 1) ∧ .dataAddressRange (max w.toNat 0x1000) = e := by
  simp only [dataFault, Option.ite_none_right_eq_some, Option.some.injEq]

theorem HaltsBy.of_dataFault (h : (dataFault dataOob s.i (accessCount i)).map .fault = some k) : HaltsBy i s k := by
  obtain ⟨e, he, rfl⟩ := Option.map_eq_some_iff.1 h
  obtain ⟨⟨hn, hend⟩, rfl⟩ := dataFault_eq_some_iff.1 he
  exact .dataPastEnd i s hn hend

theorem HaltsBy.of_haltOf (h : haltOf i s = some k) : HaltsBy i s k := by
  cases i with
  | ret =>
    obtain ⟨hsp, rfl⟩ : s.sp.val = 0 ∧ .ended = k := by simpa [haltOf] using h
    exact .emptyStack s hsp
  | call nnn =>
    obtain ⟨hsp, rfl⟩ : 16 ≤ s.sp.val ∧ .fault (.callStackOverflow s.pc) = k := by simpa [haltOf] using h
    exact .fullStack nnn s (by omega)
  | ldVxK x =>
    obtain ⟨hkey, rfl⟩ : s.key = none ∧ .waiting = k := by simpa [haltOf] using h
    exact .noKey x s hkey
  | _ => exact .of_dataFault h

theorem dispatched_call_of_full (nnn : Addr12) (h : s.sp.val = 16) :
    dispatched (.call nnn) s = s.raised (.callStackOverflow s.pc) :=
  dispatched_of_halt (k := .fault _) (if_neg (by omega))

theorem effect_dt_eq_delayWritten (i : Instr) (s : State) : (effect i s).dt = delayWritten i s := by
  cases i <;> rfl

theorem effect_st_eq_soundWritten (i : Instr) (s : State) : (effect i s).st = soundWritten i s := by
  cases i <;> rfl

end Sys2Proof.Machine
end

section
/-! SUPPORT. The frames of a faulting tick and of a stopped engine (spec/60_exceptions.md R229, R230). -/

namespace Sys2Proof.Safety

open Sys2Proof.Machine

/-- Taking a fault writes what R229 names, and the end of its tick the inputs (decision D4). -/
theorem keepsAllBut_raised_endTick (s : State) (e : Exc) :
    KeepsAllBut [.status, .cause, .inputs] s (s.raised e).endTick := by
  have hsame : KeepsAllBut [.status, .cause, .inputs] s s := .refl
  intro p hp
  cases p with
  | status | cause | inputs => exact absurd hp (by decide)
  | _ => exact hsame _ hp

/-- The host's moves other than a reset, on a stopped engine, write the request flags, the outcome and the inputs at
most. -/
theorem keepsAllBut_requests_inputs (s : State) (rd bp : Bool) (o : Option TickOutcome) (moves : List HostMove)
    (n : Nat) : KeepsAllBut [.redrawReq, .beepReq, .inputs] s
      { s with redrawReq := rd, beepReq := bp, outcome := o, schedule := moves, ticks := n } := by
  have hsame : KeepsAllBut [.redrawReq, .beepReq, .inputs] s s := .refl
  intro p hp
  cases p with
  | redrawReq | beepReq | inputs => exact absurd hp (by decide)
  | _ => exact hsame _ hp

end Sys2Proof.Safety
end

section
/-! SUPPORT. What a step is in each case of a tick, and that a running engine's tick is in one of them
(spec/60_exceptions.md R220, R222, R230, R231). -/

namespace Sys2Proof.Machine

open Sys2Proof.Safety

variable {s : State} {i : Instr}

@[simp] theorem finish_outcome : s.finish.outcome = s.outcome := by unfold State.finish; split <;> rfl

/-- The end of a faulting tick: no timer step (spec/60_exceptions.md R222). -/
theorem finish_raised (e : Exc) : (s.raised e).finish = (s.raised e).endTick :=
  finish_not_completed (by simp)

theorem step_of_stopped (hstop : s.status ≠ .run) (htick : nextIsTick s.schedule = true) :
    step s = .next { s with outcome := some .stopped }.endTick := by
  rw [step_of_tick htick]
  unfold tick
  split
  · next hrun => exact absurd hrun hstop
  · rfl

section
variable (hrun : s.status = .run) (htick : nextIsTick s.schedule = true)
include hrun htick

theorem step_of_fetch_past_end (hpc : 0xFFE < s.pc.toNat) :
    step s = .next (s.raised (.fetchAddressRange s.pc)).endTick := by
  have hfetch : fetchWord s.mem s.pc = .error (.fetchAddressRange s.pc) := if_pos hpc
  simp only [step_of_tick htick, tick, hrun, cycle, hfetch, raise, afterDispatch, finish_raised]

theorem step_of_unknown_word {w : Word} (hpc : s.pc.toNat ≤ 0xFFE)
    (hw : w = bytesToWord (memGet s.mem s.pc.toNat) (memGet s.mem (s.pc.toNat + 1)))
    (hdec : decodeWord w = .error (.unknown w)) :
    step s = .next (s.raised (.unknownInstruction w)).endTick := by
  have hfetch : fetchWord s.mem s.pc = .ok w := hw ▸ if_neg (by omega)
  simp only [step_of_tick htick, tick, hrun, cycle, hfetch, runWord, hdec, raise, afterDispatch, finish_raised]

/-- A tick of a running engine faults at the fetch, faults at decode, or runs an instruction (R231). -/
theorem running_cases :
    0xFFE < s.pc.toNat ∨
    (s.pc.toNat ≤ 0xFFE ∧ ∃ w, w = bytesToWord (memGet s.mem s.pc.toNat) (memGet s.mem (s.pc.toNat + 1)) ∧
      decodeWord w = .error (.unknown w)) ∨
    ∃ i, Runs s i := by
  rcases Nat.lt_or_ge 0xFFE s.pc.toNat with hpc | hpc
  · exact .inl hpc
  · cases hdec : decodeWord (bytesToWord (memGet s.mem s.pc.toNat) (memGet s.mem (s.pc.toNat + 1))) with
    | error e =>
      obtain ⟨-, rfl⟩ := Laws.decodeWord_eq_error_iff.1 hdec
      exact .inr (.inl ⟨hpc, _, rfl, hdec⟩)
    | ok i => exact .inr (.inr ⟨i, hrun, htick, hpc, hdec⟩)

end

theorem tick_step_answers (htick : nextIsTick s.schedule = true) : ∃ t, step s = .next t := by
  by_cases hrun : s.status = .run
  · rcases running_cases hrun htick with hpc | ⟨hpc, w, hw, hdec⟩ | ⟨i, hruns⟩
    · exact ⟨_, step_of_fetch_past_end hrun htick hpc⟩
    · exact ⟨_, step_of_unknown_word hrun htick hpc hw hdec⟩
    · exact ⟨_, step_of_runs hruns⟩
  · exact ⟨_, step_of_stopped hrun htick⟩

/-- A dispatch that ends in a fault is the taking of that fault, so that none of its writes are kept (R229). -/
theorem dispatched_of_fault {e : Exc} (h : (dispatched i s).outcome = some (.fault e)) :
    dispatched i s = s.raised e ∧ HaltsBy i s (.fault e) := by
  cases hk : haltOf i s with
  | none => simp [dispatched_of_no_halt hk] at h
  | some k =>
    rw [dispatched_of_halt hk] at h ⊢
    cases k with
    | waiting | ended => simp [State.halted] at h
    | fault e' =>
      obtain rfl : e' = e := by simpa [State.halted] using h
      exact ⟨rfl, .of_haltOf hk⟩

/-- A tick whose dispatch stops short has no timer step, one whose dispatch completes has it (R222). -/
theorem step_of_runs_halted {k : Halt} (h : Runs s i) (hk : haltOf i s = some k) :
    step s = .next (s.halted k).endTick := by
  rw [step_of_runs h, dispatched_of_halt hk, finish_not_completed (halted_not_completed k)]

theorem step_of_runs_completed (h : Runs s i) (hk : haltOf i s = none) :
    step s = .next (effect i s).completed.timerStep.endTick := by
  rw [step_of_runs h, dispatched_of_no_halt hk, finish_completed rfl]

end Sys2Proof.Machine
end

section
/-! The rules about the cycle, the faults and a stopped engine (spec/60_exceptions.md). -/

namespace Sys2Proof.Machine

open Sys2Proof.Safety

/-- Settles O8: a dispatch completes, or stops short in one of the four ways of `HaltsBy`. -/
theorem dispatchHasOneOutcome : Obligations.DispatchHasOneOutcome := by
  intro i s
  refine ⟨_, exec_eq i s, ?_⟩
  cases hk : haltOf i s with
  | none => exact .inl (by rw [dispatched_of_no_halt hk]; rfl)
  | some k =>
    rw [dispatched_of_halt hk]
    cases HaltsBy.of_haltOf hk with
    | noKey x _ hkey => exact .inr (.inl ⟨rfl, ⟨x, rfl⟩, hkey⟩)
    | emptyStack _ hsp => exact .inr (.inr (.inl ⟨rfl, rfl, hsp⟩))
    | fullStack nnn _ hsp => exact .inr (.inr (.inr (.inl ⟨rfl, ⟨nnn, rfl⟩, hsp⟩)))
    | dataPastEnd _ _ hn hend => exact .inr (.inr (.inr (.inr ⟨rfl, hn, hend⟩)))

/-- Settles O9: a tick answers in each of its cases, and each other move of the host is one state. -/
theorem everyStepAnswers : Obligations.EveryStepAnswers := by
  intro s
  cases hs : s.schedule with
  | nil => exact tick_step_answers (by rw [hs]; rfl)
  | cons move rest =>
    cases move with
    | tick => exact tick_step_answers (by rw [hs]; rfl)
    | reset | redrawAck | beepAck => exact ⟨_, by rw [step, hostStep, hs]⟩

/-- Settles O12: in each case of a running engine's tick a fault is the taking of it in the state at the start. -/
theorem faultingTickLeavesNoTrace : Obligations.FaultingTickLeavesNoTrace := by
  intro s t e hrun htick hstep hfault
  rcases running_cases hrun htick with hpc | ⟨hpc, w, hw, hdec⟩ | ⟨i, hruns⟩
  · obtain rfl : _ = t := by simpa [step_of_fetch_past_end hrun htick hpc] using hstep
    obtain rfl : .fetchAddressRange s.pc = e := by simpa using hfault
    exact ⟨keepsAllBut_raised_endTick s _, rfl, rfl, rfl, hpc⟩
  · obtain rfl : _ = t := by simpa [step_of_unknown_word hrun htick hpc hw hdec] using hstep
    obtain rfl : .unknownInstruction w = e := by simpa using hfault
    exact ⟨keepsAllBut_raised_endTick s _, rfl, rfl, hpc, hw, hdec⟩
  · obtain rfl : _ = t := by simpa [step_of_runs hruns] using hstep
    rw [finish_outcome] at hfault
    obtain ⟨hraised, hhalts⟩ := dispatched_of_fault hfault
    rw [hraised, finish_raised]
    refine ⟨keepsAllBut_raised_endTick s e, rfl, rfl, ?_⟩
    cases hhalts with
    | fullStack nnn _ hsp => exact ⟨rfl, hsp, nnn, hruns⟩
    | dataPastEnd _ _ hn hend => exact ⟨rfl, i, hruns, hn, hend⟩

/-- Settles O14: a stopped tick writes the outcome and its inputs, an acknowledge its flag. -/
theorem onlyResetLeavesStop : Obligations.OnlyResetLeavesStop := by
  intro s t hstop hstep hreset
  rcases step_cases hstep with ⟨htick, -⟩ | ⟨image, rest, hs, -⟩ | ⟨rest, -, rfl⟩ | ⟨rest, -, rfl⟩
  · obtain rfl : _ = t := by simpa [step_of_stopped hstop htick] using hstep
    exact keepsAllBut_requests_inputs s _ _ _ _ _
  · exact absurd hs (hreset image rest)
  · exact keepsAllBut_requests_inputs s _ _ _ _ _
  · exact keepsAllBut_requests_inputs s _ _ _ _ _

/-- Settles O16: the timer step follows the writes of a completed dispatch, and no other. -/
theorem timersCountInCompletedTicks : Obligations.TimersCountInCompletedTicks := by
  intro s t i hruns hstep
  cases hk : haltOf i s with
  | none =>
    obtain rfl : (effect i s).completed.timerStep.endTick = t := by
      simpa [step_of_runs_completed hruns hk] using hstep
    refine ⟨fun _ => ⟨?_, ?_, ?_⟩, fun hc => absurd rfl hc⟩
    · simpa [effect_dt_eq_delayWritten] using toNat_countDown (delayWritten i s)
    · simpa [effect_st_eq_soundWritten] using toNat_countDown (soundWritten i s)
    · simp [effect_st_eq_soundWritten, ← BitVec.toNat_inj]
  | some k =>
    obtain rfl : (s.halted k).endTick = t := by simpa [step_of_runs_halted hruns hk] using hstep
    exact ⟨fun hc => absurd hc (halted_not_completed k), fun _ => ⟨halted_dt k, halted_st k, halted_beepReq k⟩⟩

/-- Settles O7: `step_of_runs`, with the two ways a tick ends. -/
theorem stepRunsDecodedInstruction : Obligations.StepRunsDecodedInstruction := by
  intro s i hruns t hexec
  obtain rfl : dispatched i s = t := by simpa [exec_eq] using hexec
  rw [step_of_runs hruns]
  exact ⟨fun hc => congrArg _ (finish_completed hc), fun hc => congrArg _ (finish_not_completed hc)⟩

/-- Settles O10. -/
theorem fetchPastEndFaults : Obligations.FetchPastEndFaults := fun _ hrun htick hpc =>
  ⟨step_of_fetch_past_end hrun htick hpc, rfl⟩

/-- Settles O11. -/
theorem unknownWordFaults : Obligations.UnknownWordFaults := fun _ _ hrun htick hpc hw hdec =>
  ⟨step_of_unknown_word hrun htick hpc hw hdec, rfl⟩

/-- Settles O13. -/
theorem stoppedTickChangesNothing : Obligations.StoppedTickChangesNothing := fun _ => step_of_stopped

/-- Settles O22. -/
theorem callOnFullStackFaults : Obligations.CallOnFullStackFaults := fun nnn s hsp =>
  ⟨by rw [exec_eq, dispatched_call_of_full nnn hsp]; rfl, rfl⟩

end Sys2Proof.Machine
end

section
/-! SUPPORT. Memory, the registers and the step of a reset (spec/70_reset_and_hazards.md R261 to R264; spec/10_state.md
R43). -/

namespace Sys2Proof.Machine

variable {s : State} {image : List Byte} {rest : List HostMove} {a k : Nat} {b : Byte}

/-! ### Memory -/

theorem font_getElem? (ha : a < 80) : font[a]? = some (resetByte a) := by
  have hlt : a < font.length := ha
  simp [resetByte, List.getElem?_eq_getElem hlt]

theorem resetByte_past_font (ha : 80 ≤ a) : resetByte a = 0 := by
  have hnone : font[a]? = none := List.getElem?_eq_none ha
  simp [resetByte, hnone]

/-- Reading after a reset: the image from 0x200 up, the reset contents elsewhere. -/
theorem memGet_loadImage (image : List Byte) (a : Nat) : memGet (loadImage image) a =
    if 0x200 ≤ a then (image[a - 0x200]?).getD (resetByte a) else resetByte a :=
  memGet_imageCells 0x200 image a

theorem memGet_loadImage_below (ha : a < 0x200) : memGet (loadImage image) a = resetByte a := by
  rw [memGet_loadImage, if_neg (Nat.not_le.2 ha)]

theorem memGet_loadImage_inside (h : image[k]? = some b) : memGet (loadImage image) (0x200 + k) = b := by
  simp [memGet_loadImage, h]

theorem memGet_loadImage_above (ha : 0x200 + image.length ≤ a) : memGet (loadImage image) a = 0 := by
  have hnone : image[a - 0x200]? = none := List.getElem?_eq_none (by omega)
  have hlo : 0x200 ≤ a := by omega
  simp [memGet_loadImage, hlo, hnone, resetByte_past_font (by omega : 80 ≤ a)]

/-! ### Registers -/

theorem reset_reg (r : Reg) : State.reset.reg r = 0 := by simp [State.reg, RegFile.read, State.reset]

theorem reset_stack (k : Fin 16) : State.reset.stack[k.val] = 0 := by simp [State.reset]

/-! ### The step -/

theorem step_of_reset_fits (hs : s.schedule = .reset image :: rest) (hfits : image.length ≤ 3584) :
    step s = .next { State.reset with mem := loadImage image, schedule := rest, ticks := s.ticks } := by
  have hok : imageOk image = true := decide_eq_true hfits
  simp only [step, hostStep, hs, hostReset_fits hok]

theorem step_of_reset_overlong (hs : s.schedule = .reset image :: rest) (hlong : 3584 < image.length) :
    step s = .next
      { State.reset.raised (.loadOverflow image.length) with schedule := rest, ticks := s.ticks } := by
  have hok : imageOk image = false := decide_eq_false (Nat.not_le.2 hlong)
  simp only [step, hostStep, hs, hostReset_overflow hok]

end Sys2Proof.Machine
end

section
/-! SUPPORT. The frame of a fault that a move of the host raises (spec/70_reset_and_hazards.md R264, decision D2). -/

namespace Sys2Proof.Safety

open Sys2Proof.Machine

/-- Taking a fault writes what R229 names, and a move of the host the inputs. -/
theorem keepsAllBut_raised_inputs (s : State) (e : Exc) (moves : List HostMove) (n : Nat) :
    KeepsAllBut [.status, .cause, .inputs] s { s.raised e with schedule := moves, ticks := n } := by
  have hsame : KeepsAllBut [.status, .cause, .inputs] s s := .refl
  intro p hp
  cases p with
  | status | cause | inputs => exact absurd hp (by decide)
  | _ => exact hsame _ hp

end Sys2Proof.Safety
end

section
/-! The rules about reset (spec/70_reset_and_hazards.md). -/

namespace Sys2Proof.Machine

open Sys2Proof.Safety

/-- Settles O18: the registers are those of `State.reset`, and memory is that of `loadImage`, read range by range. -/
theorem resetLoadsImage : Obligations.ResetLoadsImage := by
  intro s image rest hs hfits
  refine ⟨_, step_of_reset_fits hs hfits, fun _ _ => memGet_loadImage_inside, ?font, ?gap,
    fun _ ha _ => memGet_loadImage_above ha, reset_reg, rfl, rfl, rfl, reset_stack, rfl, rfl, cell_blank, rfl, rfl, rfl, rfl⟩
  case font =>
    intro a ha
    rw [memGet_loadImage_below (by omega)]
    exact font_getElem? ha
  case gap =>
    intro a hlo hhi
    rw [memGet_loadImage_below hhi]
    exact resetByte_past_font hlo

/-- Settles O19: the step takes the fault in the state after reset, whose memory holds nothing but the font. -/
theorem overlongImageCopiesNothing : Obligations.OverlongImageCopiesNothing := fun s _ rest hs hlong =>
  ⟨_, step_of_reset_overlong hs hlong, rfl, rfl, rfl, keepsAllBut_raised_inputs State.reset _ rest s.ticks,
    fun _ ha _ => resetByte_past_font (by omega)⟩

end Sys2Proof.Machine
end
